-- ==== Sys2Proof/Word.lean ====
section
/-! DEFINITION. The plain word types of PWOM-CORE (spec/00_scope.md R7: every quantity is unsigned). -/

namespace Sys2Proof

/-- A byte: an unsigned integer 0..255 (R7). -/
abbrev Byte := BitVec 8

/-- A word of the running digest state: 32 bits (R7, `WORD_BITS` of R6). -/
abbrev Word := BitVec 32

/-- A command word on the 16-bit command port (R50, `CMD_BITS` of R6). -/
abbrev CmdWord := BitVec 16

/-- A response word on the 12-bit response port (R54, `RESP_BITS` of R6). -/
abbrev RespWord := BitVec 12

end Sys2Proof
end

