-- ==== Sys2Proof/Syntax.lean ====
section
/-! DEFINITION. The commands of PWOM-CORE: one constructor per row of spec/opcode_table.json (R53). -/

namespace Sys2Proof

/-- The 13 commands of R53, in the order of the opcode map. The operand of `ABSORB` is a message byte
(format B, R51); the operand of `RDDIG` and `RDPW` is an index, the field `imm` read as an unsigned
integer and not masked (format X, R52). -/
inductive Instr where
  | nop
  | init
  | absorb (b : Byte)
  | sep
  | final
  | rehash
  | iter
  | derive
  | encode
  | gen
  | rddig (i : Nat)
  | rdpw (i : Nat)
  | rdst
deriving DecidableEq, Repr

end Sys2Proof
end

