-- ==== Sys2Proof/WellFormed.lean ====
section
/-! DEFINITION. Which command terms have an encoding: an index must fit the 8-bit field `imm` (R50, R52). -/

namespace Sys2Proof

/-- An index operand is well formed when it fits the field `imm`, 0..255 (R52). Indexes 32..255 are well
formed: they decode, and fault with `E_INDEX` at execution (R51). -/
abbrev indexFits (i : Nat) : Bool := decide (i ≤ 255)

/-- The well-formed commands: those some command word decodes to (R66). -/
def Instr.wellFormed : Instr → Bool
  | .rddig i => indexFits i
  | .rdpw i => indexFits i
  | .nop | .init | .absorb _ | .sep | .final | .rehash | .iter | .derive | .encode | .gen | .rdst => true

end Sys2Proof
end

