-- ==== Sys2Proof/Decode.lean ====
section
/-! DEFINITION. Decoding a command word (spec/30_encoding.md R50 to R57, R66) and encoding a command (R53). -/

namespace Sys2Proof

/-- Why a command word is illegal (R55): the two cases (a) and (b), each by name. -/
inductive DecodeError where
  /-- R55 (a): the opcode is 0x0D..0xFF. -/
  | reservedOpcode (op : Byte)
  /-- R55 (b): a format Z opcode with `imm` other than 0x00. -/
  | operandNotZero (op imm : Byte)
deriving DecidableEq, Repr

/-- The field `op`, bits 15:8 (R50). -/
def opField (w : CmdWord) : Byte := w.extractLsb' 8 8

/-- The field `imm`, bits 7:0 (R50). -/
def immField (w : CmdWord) : Byte := w.extractLsb' 0 8

/-- The format Z command of an opcode, where it has one (R51, R53). -/
def formatZ (op : Byte) : Option Instr :=
  if op = 0x00#8 then some .nop
  else if op = 0x01#8 then some .init
  else if op = 0x03#8 then some .sep
  else if op = 0x04#8 then some .final
  else if op = 0x05#8 then some .rehash
  else if op = 0x06#8 then some .iter
  else if op = 0x07#8 then some .derive
  else if op = 0x08#8 then some .encode
  else if op = 0x09#8 then some .gen
  else if op = 0x0C#8 then some .rdst
  else none

/-- The decoding procedure of R66, total on all 65536 words. An index is `imm` as an unsigned integer (R52). -/
def decode (w : CmdWord) : Except DecodeError Instr :=
  if opField w = 0x02#8 then .ok (.absorb (immField w))
  else if opField w = 0x0A#8 then .ok (.rddig (immField w).toNat)
  else if opField w = 0x0B#8 then .ok (.rdpw (immField w).toNat)
  else match formatZ (opField w) with
    | some i => if immField w = 0x00#8 then .ok i else .error (.operandNotZero (opField w) (immField w))
    | none => .error (.reservedOpcode (opField w))

/-- The `match` column of the opcode map, R53. -/
def rowMatch : Instr → CmdWord
  | .nop => 0x0000#16
  | .init => 0x0100#16
  | .absorb _ => 0x0200#16
  | .sep => 0x0300#16
  | .final => 0x0400#16
  | .rehash => 0x0500#16
  | .iter => 0x0600#16
  | .derive => 0x0700#16
  | .encode => 0x0800#16
  | .gen => 0x0900#16
  | .rddig _ => 0x0A00#16
  | .rdpw _ => 0x0B00#16
  | .rdst => 0x0C00#16

/-- The `mask` column of the opcode map, R53. -/
def rowMask : Instr → CmdWord
  | .absorb _ | .rddig _ | .rdpw _ => 0xFF00#16
  | .nop | .init | .sep | .final | .rehash | .iter | .derive | .encode | .gen | .rdst => 0xFFFF#16

/-- The field `imm` of a command: its byte, its index, or zero, by format (R51). An index above 255 has no word in the
spec (R50, R60); that it is taken modulo 256 here is the model's (DESIGN CHOICE, unsafe, notes/assumptions/15.md). -/
def operandField : Instr → Byte
  | .absorb b => b
  | .rddig i | .rdpw i => BitVec.ofNat 8 i
  | .nop | .init | .sep | .final | .rehash | .iter | .derive | .encode | .gen | .rdst => 0x00#8

/-- The command word of a well-formed command: its row's `match` with the operand in bits 7:0 (R50, R53, R60). What it
gives a command that is not well formed is the model's (notes/assumptions/15.md). -/
def encode (i : Instr) : CmdWord := rowMatch i ||| (operandField i).setWidth 16

/-- The command this decoder reads from the low `nbits` bits of `w`, numbered as spec/opcode_table.json
numbers them; `none` for an illegal word. A command is one 16-bit word (R57), a parallel value with no byte
order (R40, R50), so the bits of `w` are the bits of the command word. -/
def decodeTableWord (nbits w : Nat) : Option Instr :=
  match decode (BitVec.ofNat 16 (w % 2 ^ nbits)) with
  | .ok i => some i
  | .error _ => none

end Sys2Proof
end

