-- ==== Sys2Proof/Config.lean ====
section
/-! DEFINITION. What an implementation fixes (spec/92_eei_decisions.md, Open parameters) and the free values.
The constants of R6 that are not open stand beside the operations that use them, in Sys2Proof/Machine/. -/

namespace Sys2Proof

/-- The one open parameter of the block, `MAXLEN` (R6, D9): the largest total message length in bytes.
R17 makes `LEN` 61 bits wide, so 61 bits hold every legal value. -/
structure Config where
  maxLen : BitVec 61
deriving DecidableEq, Repr

/-- The default of the table of open parameters: `MAXLEN = 2^61 - 1`. -/
def Config.default : Config := ⟨2305843009213693951#61⟩

/-- The legal range of `MAXLEN`: from 55 to `2^61 - 1` (D9; the upper end is the width of the field). -/
abbrev Config.Legal (c : Config) : Prop := 55 ≤ c.maxLen.toNat

/-- FREE VALUE (notes/assumptions/2.md): what the 64 cells of `BUF` physically hold after `rst`, given what
they held before. R31 gives them no value; R141 says reset need not overwrite them. -/
opaque Config.bufAfterReset : Vector Byte 64 → Vector Byte 64

/-- FREE VALUE (notes/assumptions/2.md): the 32 cells of `DIGEST` after `rst` (R31, R141). -/
opaque Config.digestAfterReset : Vector Byte 32 → Vector Byte 32

/-- FREE VALUE (notes/assumptions/2.md): the 32 cells of `PW` after `rst` (R31, R141). -/
opaque Config.pwAfterReset : Vector Byte 32 → Vector Byte 32

end Sys2Proof
end

