-- ==== Sys2Proof/Machine/Operands.lean ====
section
/-! DEFINITION. Operand forms: byte sequences and their big-endian words (R9, R37 to R39), the access
primitives over an index space (R10, R35, R150), and the two operands a command carries (R52). -/

namespace Sys2Proof.Machine

/-- Byte `j` of a 32-bit word counted from its most significant byte: bits `31-8j : 24-8j` (R37). -/
def byteOfWord (w : Word) (j : Nat) : Byte := w.extractLsb' (24 - 8 * j) 8

/-- `BE32(w)`: the four bytes of a word, most significant first (R9). -/
def be32 (w : Word) : List Byte := [byteOfWord w 0, byteOfWord w 1, byteOfWord w 2, byteOfWord w 3]

/-- Byte `j` of a 64-bit value counted from its most significant byte (R9). -/
def byteOfDouble (v : BitVec 64) (j : Nat) : Byte := v.extractLsb' (56 - 8 * j) 8

/-- `BE64(v)`: the eight bytes of a 64-bit value, most significant first (R9). -/
def be64 (v : BitVec 64) : List Byte :=
  [byteOfDouble v 0, byteOfDouble v 1, byteOfDouble v 2, byteOfDouble v 3,
   byteOfDouble v 4, byteOfDouble v 5, byteOfDouble v 6, byteOfDouble v 7]

/-- `fromBE32([b0, b1, b2, b3])`: four bytes as a word, `b0` most significant (R9). -/
def fromBE32 (b0 b1 b2 b3 : Byte) : Word := b0 ++ b1 ++ b2 ++ b3

/-- The big-endian words of a block, `blk[4t .. 4t+3]` for `t = 0, 1, ...` (R39). -/
def blockWords : List Byte → List Word
  | b0 :: b1 :: b2 :: b3 :: rest => fromBE32 b0 b1 b2 b3 :: blockWords rest
  | _ => []

/-- `zeros(n)`: n bytes of 0x00 (R9). -/
def zeros (n : Nat) : List Byte := List.replicate n 0x00#8

/-- `MemRead(S, a, n)`: the n bytes at indices `a .. a+n-1` of an index space (R10). -/
def memRead {size : Nat} (space : Vector Byte size) (a n : Nat) : List Byte := (space.toList.drop a).take n

/-- `MemWrite(S, a, n, v)`: write the bytes of `v` to indices `a, a+1, ...` of an index space (R10). No rule
of the spec writes past the end of a space (R10, R150). -/
def memWrite {size : Nat} (space : Vector Byte size) (a : Nat) : List Byte → Vector Byte size
  | [] => space
  | b :: bs => memWrite (space.setIfInBounds a b) (a + 1) bs

/-- `DIGEST[i]` and `PW[i]`, one byte of a 32-byte space: `MemRead(S, i, 1)[0]` (R112, R113). The index check
of R127 stands before every use, so the default is never read. -/
def byteAt (space : Vector Byte 32) (i : Nat) : Byte := (memRead space i 1).headD 0x00#8

/-- The separator byte `SEP`, the character `|` (R6, R84). -/
def sepByte : Byte := 0x7C#8

/-- The largest index of `DIGEST` and `PW`: an index is legal when it is at most 31, compared as an unsigned
integer and not masked (R52, R127). -/
def lastIndex : Nat := 31

end Sys2Proof.Machine
end

