-- ==== Sys2Proof/Machine/Compression.lean ====
section
/-! DEFINITION. The compression function (spec/40_compression.md): the word functions R67 to R72, the
constants R73 and R74, the message schedule R75, the round step R76 and `COMPRESS` R77. -/

namespace Sys2Proof.Machine

/-- `Ch(x, y, z)` (R67). -/
def ch (x y z : Word) : Word := (x &&& y) ^^^ (~~~x &&& z)

/-- `Maj(x, y, z)` (R68). -/
def maj (x y z : Word) : Word := (x &&& y) ^^^ (x &&& z) ^^^ (y &&& z)

/-- `BSIG0(x)` (R69). -/
def bsig0 (x : Word) : Word := x.rotateRight 2 ^^^ x.rotateRight 13 ^^^ x.rotateRight 22

/-- `BSIG1(x)` (R70). -/
def bsig1 (x : Word) : Word := x.rotateRight 6 ^^^ x.rotateRight 11 ^^^ x.rotateRight 25

/-- `SSIG0(x)`: the third term is a shift (R71). -/
def ssig0 (x : Word) : Word := x.rotateRight 7 ^^^ x.rotateRight 18 ^^^ (x >>> 3)

/-- `SSIG1(x)`: the third term is a shift (R72). -/
def ssig1 (x : Word) : Word := x.rotateRight 17 ^^^ x.rotateRight 19 ^^^ (x >>> 10)

/-- The round constants `K[0..63]`, `K[0]` first (R73). -/
def roundConstants : List Word :=
  [0x428a2f98#32, 0x71374491#32, 0xb5c0fbcf#32, 0xe9b5dba5#32, 0x3956c25b#32, 0x59f111f1#32, 0x923f82a4#32, 0xab1c5ed5#32] ++
  [0xd807aa98#32, 0x12835b01#32, 0x243185be#32, 0x550c7dc3#32, 0x72be5d74#32, 0x80deb1fe#32, 0x9bdc06a7#32, 0xc19bf174#32] ++
  [0xe49b69c1#32, 0xefbe4786#32, 0x0fc19dc6#32, 0x240ca1cc#32, 0x2de92c6f#32, 0x4a7484aa#32, 0x5cb0a9dc#32, 0x76f988da#32] ++
  [0x983e5152#32, 0xa831c66d#32, 0xb00327c8#32, 0xbf597fc7#32, 0xc6e00bf3#32, 0xd5a79147#32, 0x06ca6351#32, 0x14292967#32] ++
  [0x27b70a85#32, 0x2e1b2138#32, 0x4d2c6dfc#32, 0x53380d13#32, 0x650a7354#32, 0x766a0abb#32, 0x81c2c92e#32, 0x92722c85#32] ++
  [0xa2bfe8a1#32, 0xa81a664b#32, 0xc24b8b70#32, 0xc76c51a3#32, 0xd192e819#32, 0xd6990624#32, 0xf40e3585#32, 0x106aa070#32] ++
  [0x19a4c116#32, 0x1e376c08#32, 0x2748774c#32, 0x34b0bcb5#32, 0x391c0cb3#32, 0x4ed8aa4a#32, 0x5b9cca4f#32, 0x682e6ff3#32] ++
  [0x748f82ee#32, 0x78a5636f#32, 0x84c87814#32, 0x8cc70208#32, 0x90befffa#32, 0xa4506ceb#32, 0xbef9a3f7#32, 0xc67178f2#32]

/-- The initial hash values `IV[0..7]` (R74). -/
def iv : Vector Word 8 :=
  #v[0x6a09e667#32, 0xbb67ae85#32, 0x3c6ef372#32, 0xa54ff53a#32, 0x510e527f#32, 0x9b05688c#32, 0x1f83d9ab#32, 0x5be0cd19#32]

/-- The next word of the message schedule, `W[t]` for `t = w.length`, from the words before it (R75). -/
def scheduleWord (w : List Word) : Word :=
  ssig1 (w.getD (w.length - 2) 0) + w.getD (w.length - 7) 0 +
    ssig0 (w.getD (w.length - 15) 0) + w.getD (w.length - 16) 0

/-- `n` more words of the message schedule after the words `w` (R75). -/
def extendSchedule : Nat → List Word → List Word
  | 0, w => w
  | n + 1, w => extendSchedule n (w ++ [scheduleWord w])

/-- The message schedule `W[0..63]` of a 64-byte block: its 16 big-endian words, then `t = 16 .. 63` (R75). Its value on a
list of another length is the model's (DESIGN CHOICE, unsafe, notes/assumptions/17.md). -/
def schedule (blk : List Byte) : List Word := extendSchedule 48 (blockWords blk)

/-- The eight working words `a .. h` of the rounds; transient, never part of the state (R29, R76). -/
structure Working where
  a : Word
  b : Word
  c : Word
  d : Word
  e : Word
  f : Word
  g : Word
  h : Word
deriving DecidableEq, Repr

/-- One round with the constant `k = K[t]` and the schedule word `w = W[t]`; the eight new values are computed
from the old ones (R76). -/
def round (k w : Word) (v : Working) : Working :=
  let t1 := v.h + bsig1 v.e + ch v.e v.f v.g + k + w
  let t2 := bsig0 v.a + maj v.a v.b v.c
  { a := t1 + t2, b := v.a, c := v.b, d := v.c, e := v.d + t1, f := v.e, g := v.f, h := v.g }

/-- The working words at the start of the rounds: `(a, .., h) = (H[0], .., H[7])` (R77). -/
def workingOf (h : Vector Word 8) : Working :=
  { a := h[0], b := h[1], c := h[2], d := h[3], e := h[4], f := h[5], g := h[6], h := h[7] }

/-- The rounds `t = 0, 1, ...` over the pairs `(K[t], W[t])`, in that order (R77). -/
def rounds (kw : List (Word × Word)) (v : Working) : Working := kw.foldl (fun v p => round p.1 p.2 v) v

/-- The feed-forward: the working words added to the values `H` had before the rounds (R77). -/
def feedForward (h : Vector Word 8) (v : Working) : Vector Word 8 :=
  #v[h[0] + v.a, h[1] + v.b, h[2] + v.c, h[3] + v.d, h[4] + v.e, h[5] + v.f, h[6] + v.g, h[7] + v.h]

/-- `compress : Word^8 x Byte^64 -> Word^8`; `COMPRESS(blk)` is `H <- compress(H, blk)` (R77, R78). Its value on a list of
other than 64 bytes is the model's (notes/assumptions/17.md). -/
def compress (h : Vector Word 8) (blk : List Byte) : Vector Word 8 :=
  feedForward h (rounds (roundConstants.zip (schedule blk)) (workingOf h))

end Sys2Proof.Machine
end

