-- ==== Sys2Proof/Machine/State.lean ====
section
/-! DEFINITION. The state of one PWOM-CORE instance (spec/10_state.md R15), plain data, and its reset value (R31). -/

namespace Sys2Proof.Machine

/-- The six faults of R118, by name. A command that raises one COMPLETES ITS STEP: R120 describes the entry
(`ERR`, `ECODE`, the response), so raising one is a next state, never a stop of the model. -/
inductive FaultCode where
  /-- `E_ILLEGAL`: the command word is illegal (R124). -/
  | illegal
  /-- `E_PHASE`: the phase does not admit the command (R125). -/
  | phase
  /-- `E_NODIGEST`: `DIGEST` holds no value (R126). -/
  | noDigest
  /-- `E_NOPW`: `PW` holds no value (R126). -/
  | noPw
  /-- `E_INDEX`: a read index above 31 (R127). -/
  | index
  /-- `E_LENGTH`: the message is `MAXLEN` bytes long (R128). -/
  | length
deriving DecidableEq, Repr

/-- What the host can do at the block's inputs (R58): present a command word, or assert `rst` (R133). -/
inductive PortEvent where
  | command (w : CmdWord)
  | reset
deriving DecidableEq, Repr

/-- Why the model stops with a fault: there is no reason. Every word in every state has an effect in the spec
(R56), and the spec's own faults are next states (`FaultCode`, R120). Nobody raises one; this is exact. -/
inductive Fault where
deriving DecidableEq, Repr

/-- Why the model refuses a command. -/
inductive Refusal where
  /-- An arm of `exec` whose command has no meaning yet, by its mnemonic. Every arm has its meaning, so nobody
  raises it; where it is raised it is safe (the model stops where the block goes on). -/
  | notModelled (mnemonic : String)
deriving DecidableEq, Repr

/-- The architectural state is `h` to `ecode`, the rows of R15. `config`, `port` and `resp` are the model's own:
the open parameter, what the host presents (R58, notes/assumptions/3.md) and the response port (R54,
notes/assumptions/4.md). -/
structure State where
  /-- `H[0..7]`, the running digest state: 8 words of 32 bits (R16). -/
  h : Vector Word 8
  /-- `LEN`, message bytes appended since the last init: 61 bits (R17). -/
  len : BitVec 61
  /-- `BUF[0..63]`, the partial-block buffer; only `BUF[0..BUFLEN-1]` is meaningful (R18). -/
  buf : Vector Byte 64
  /-- `BUFLEN`, the number of meaningful bytes of `BUF`: 6 bits (R19). -/
  bufLen : BitVec 6
  /-- `DIGEST[0..31]`, the last digest; it holds a value while `DV = 1` (R20, R22). -/
  digest : Vector Byte 32
  /-- `PW[0..31]`, the last encoded password; it holds a value while `PV = 1` (R23, R24). -/
  pw : Vector Byte 32
  /-- `FIN`, the phase flag: the hash state has been finalized (R21). -/
  fin : Bool
  /-- `DV`: `DIGEST` holds a value (R22). -/
  dv : Bool
  /-- `PV`: `PW` holds a value (R23). -/
  pv : Bool
  /-- `ERR`: a fault has been recorded, sticky (R27). -/
  err : Bool
  /-- `ECODE`: the code of the first fault recorded: 4 bits (R27). -/
  ecode : BitVec 4
  /-- The open parameter `MAXLEN` of this instance (R6, D9); no command writes it. -/
  config : Config
  /-- What the host presents at the inputs from now on, in order; empty while the host waits (R58, R59). -/
  port : List PortEvent
  /-- The response port: the response word of the last accepted command, `none` while `resp_valid = 0` (R54, R58). -/
  resp : Option RespWord
deriving DecidableEq, Repr

/-- The machine right after reset (R31, R134). `BUF`, `DIGEST` and `PW` hold no value there; the zero bytes are
the model's (DESIGN CHOICE, notes/assumptions/1.md) and no rule reads them. `MAXLEN` has its default. -/
def State.reset : State where
  h := iv
  len := 0#61
  buf := Vector.replicate 64 0x00#8
  bufLen := 0#6
  digest := Vector.replicate 32 0x00#8
  pw := Vector.replicate 32 0x00#8
  fin := false
  dv := false
  pv := false
  err := false
  ecode := 0#4
  config := Config.default
  port := []
  resp := none

end Sys2Proof.Machine
end

