-- ==== Sys2Proof/Machine/Flags.lean ====
section
/-! DEFINITION. The status register (R26), the fault codes (R118) and the checks a command makes before its
first write, in the order of R119 (lines 3 to 6). -/

namespace Sys2Proof.Machine

/-- The 4-bit code of a fault (R118); code 0 means no fault and codes 7..15 are never produced. -/
def faultNumber : FaultCode → BitVec 4
  | .illegal => 1#4
  | .phase => 2#4
  | .noDigest => 3#4
  | .noPw => 4#4
  | .index => 5#4
  | .length => 6#4

/-- `STATUS`: `ECODE` in bits 7:4, then `ERR`, `PV`, `DV`, `FIN` (R26). -/
def statusWord (s : State) : Byte :=
  s.ecode ++ BitVec.ofBool s.err ++ BitVec.ofBool s.pv ++ BitVec.ofBool s.dv ++ BitVec.ofBool s.fin

/-- `NOP` and `INIT` make no check of their own (R118, R125). -/
def noCheck (_ : State) : Option FaultCode := none

/-- The word itself is illegal (R119 line 2). -/
def illegalCheck (_ : State) : Option FaultCode := some .illegal

/-- `ABSORB` and `SEP`: the phase, then the length (R119 lines 3 and 6). -/
def appendCheck (s : State) : Option FaultCode :=
  if s.fin then some .phase
  else if s.len = s.config.maxLen then some .length
  else none

/-- `FINAL`, `DERIVE` and `GEN`: the absorbing phase (R119 line 3). -/
def finalizeCheck (s : State) : Option FaultCode := if s.fin then some .phase else none

/-- `REHASH` and `ITER`: the finalized phase (R119 line 3). -/
def rehashCheck (s : State) : Option FaultCode := if s.fin then none else some .phase

/-- `ENCODE`: a digest exists (R119 line 4). -/
def digestCheck (s : State) : Option FaultCode := if s.dv then none else some .noDigest

/-- `E_INDEX` for an index above 31 (R119 line 5, R127). -/
def indexCheck (i : Nat) : Option FaultCode := if lastIndex < i then some .index else none

/-- `RDDIG i`: validity before index (R119 lines 4 and 5; 90_conflicts.md C11). -/
def readDigestCheck (i : Nat) (s : State) : Option FaultCode := if s.dv then indexCheck i else some .noDigest

/-- `RDPW i`: validity before index (R119 lines 4 and 5; 90_conflicts.md C11). -/
def readPasswordCheck (i : Nat) (s : State) : Option FaultCode := if s.pv then indexCheck i else some .noPw

end Sys2Proof.Machine
end

