-- ==== Sys2Proof/Machine/Ops.lean ====
section
/-! DEFINITION. The operations every command is made of: the response (R54), fault entry (R120), the refusal in
the faulted state (R121), the order of checks (R119), the way back from a fault, which is `rst` alone (R122,
R133), and taking the next event from the inputs (R59). -/

namespace Sys2Proof.Machine

/-- `resp <- (e, d)`: bits 11:8 are `e`, bits 7:0 are `d` (R54). -/
def respond (e : BitVec 4) (d : Byte) (s : State) : State := { s with resp := some (e ++ d) }

/-- Fault entry, `raise Fault(code)`: `ERR <- 1`, `ECODE <- code`, `resp <- (code, 0x00)`, nothing else (R120). -/
def raiseFault (c : FaultCode) (s : State) : State :=
  respond (faultNumber c) 0x00#8 { s with err := true, ecode := faultNumber c }

/-- A command in the faulted state: `resp <- (ECODE, 0x00)`, no state change (R119 line 1, R121). -/
def refuseCommand (s : State) : State := respond s.ecode 0x00#8 s

/-- The order of R119 for every command but `RDST`: the faulted state, then the command's checks, then its own
rule. `perform` is the command's body with its response. -/
def runCommand (check : State → Option FaultCode) (perform : State → State) (s : State) :
    Host.Outcome State Fault Refusal :=
  if s.err then .next (refuseCommand s)
  else match check s with
    | some c => .next (raiseFault c s)
    | none => .next (perform s)

/-- A body that is not a read: it completes with `(0, 0x00)` (R54). -/
def completing (body : State → State) (s : State) : State := respond 0#4 0x00#8 (body s)

/-- An illegal command word (R119 lines 1 and 2, R124). -/
def execIllegal (s : State) : Host.Outcome State Fault Refusal := runCommand illegalCheck id s

/-- `rst` (R133 to R135): the values of R31; a command cut short gives no response. `BUF`, `DIGEST` and `PW`
hold no value afterwards: their cells are free values (R141, notes/assumptions/2.md). The parameter and what
the host presents are not the block's to reset. -/
def applyReset (s : State) : State :=
  { State.reset with
    buf := Config.bufAfterReset s.buf
    digest := Config.digestAfterReset s.digest
    pw := Config.pwAfterReset s.pw
    config := s.config
    port := s.port }

/-- The next event at the inputs, and the state with it taken; `none` while the host waits (R59). -/
def takeEvent (s : State) : Option (PortEvent × State) :=
  match s.port with
  | [] => none
  | e :: rest => some (e, { s with port := rest })

/-- The host presents the word `w` next, before whatever else it presents (R58). -/
def presentWord (w : CmdWord) (s : State) : State := { s with port := .command w :: s.port }

end Sys2Proof.Machine
end

