-- ==== Sys2Proof/Machine/HashState.lean ====
section
/-! DEFINITION. The hash state machine (spec/41_hash_state_machine.md): `INIT`, `ABSORB`, `SEP`, `FINAL` and the
micro-operation `PAD`. -/

namespace Sys2Proof.Machine

/-- `init()`: `H = IV`, `LEN = 0`, `BUFLEN = 0`, `FIN = 0` (R80, R82); `BUF` keeps its stale bytes. -/
def initHash (s : State) : State := { s with h := iv, len := 0#61, bufLen := 0#6, fin := false }

/-- `MemWrite(BUF, BUFLEN, 1, [b])` (R83). -/
def storeByte (b : Byte) (s : State) : Vector Byte 64 := memWrite s.buf s.bufLen.toNat [b]

/-- One byte appended to the message: stored at `BUF[BUFLEN]`, counted, and the buffer compressed as soon as its
64th byte is there (R83, R81). -/
def appendByte (b : Byte) (s : State) : State :=
  if s.bufLen = 63#6 then
    { s with
      buf := storeByte b s
      len := s.len + 1
      h := compress s.h (memRead (storeByte b s) 0 64)
      bufLen := 0#6 }
  else
    { s with buf := storeByte b s, len := s.len + 1, bufLen := s.bufLen + 1 }

/-- The number of zero bytes of the padding of a message with `n` buffered bytes (R85). -/
def padZeros (n : Nat) : Nat := if n ≤ 55 then 55 - n else 119 - n

/-- The bit length `8 * LEN`, in 64 bits (R85, R38). -/
def bitLength (len : BitVec 61) : BitVec 64 := len.setWidth 64 <<< 3

/-- `PAD()`: the buffered bytes, 0x80, zeros, the bit length; 64 or 128 bytes (R85). -/
def pad (s : State) : List Byte :=
  memRead s.buf 0 s.bufLen.toNat ++ [0x80#8] ++ zeros (padZeros s.bufLen.toNat) ++ be64 (bitLength s.len)

/-- One or two compressions of the padded tail (R86, R87). -/
def compressTail (h : Vector Word 8) (p : List Byte) : Vector Word 8 :=
  if p.length = 128 then compress (compress h (p.take 64)) (p.drop 64) else compress h (p.take 64)

/-- `BE32(H[0]) ++ ... ++ BE32(H[7])` (R88, R37). -/
def serialize (h : Vector Word 8) : List Byte := h.toList.flatMap be32

/-- The digest latched into `DIGEST`, `FIN <- 1`, `DV <- 1`, `PV <- 0` (R87, R23). -/
def latchDigest (h : Vector Word 8) (s : State) : State :=
  { s with h := h, digest := memWrite s.digest 0 (serialize h), fin := true, dv := true, pv := false }

/-- The body of `FINAL`: it leaves `BUF`, `BUFLEN` and `LEN` as they were (R87, D13). -/
def finalizeBody (s : State) : State := latchDigest (compressTail s.h (pad s)) s

/-- `INIT` (R82). -/
def execInit (s : State) : Host.Outcome State Fault Refusal := runCommand noCheck (completing initHash) s

/-- `ABSORB b` (R83). -/
def execAbsorb (b : Byte) (s : State) : Host.Outcome State Fault Refusal :=
  runCommand appendCheck (completing (appendByte b)) s

/-- `SEP`: the effect of `ABSORB 0x7C` (R84). -/
def execSep (s : State) : Host.Outcome State Fault Refusal :=
  runCommand appendCheck (completing (appendByte sepByte)) s

/-- `FINAL` (R87). -/
def execFinal (s : State) : Host.Outcome State Fault Refusal :=
  runCommand finalizeCheck (completing finalizeBody) s

end Sys2Proof.Machine
end

