-- ==== Sys2Proof/Machine/Derivation.lean ====
section
/-! DEFINITION. The iterated derivation (spec/42_iterated_derivation.md): `REHASH`, `ITER`, `DERIVE`. -/

namespace Sys2Proof.Machine

/-- `ITER_COUNT`: a constant, not configurable (R6, R96, D28). -/
def iterCount : Nat := 1000

/-- The hash state loaded with the digest as its 32-byte message, as `INIT` and 32 `ABSORB`s leave it (R95). -/
def loadDigest (s : State) : State :=
  { s with h := iv, buf := memWrite s.buf 0 (memRead s.digest 0 32), len := 32#61, bufLen := 32#6 }

/-- The body of `REHASH`: `DIGEST <- Hash(DIGEST)` on the block's one hash state (R95, D8). -/
def rehashBody (s : State) : State := finalizeBody (loadDigest s)

/-- The body of `REHASH` `n` times (R96). -/
def rehashTimes : Nat → State → State
  | 0, s => s
  | n + 1, s => rehashTimes n (rehashBody s)

/-- The body of `ITER`: exactly 1000 rehashes, no early exit (R96). Irreducible, so that no proof unfolds 1000 rehashes
by accident. -/
@[irreducible] def iterBody (s : State) : State := rehashTimes iterCount s

/-- The body of `DERIVE`: the body of `FINAL`, then 1000 rehashes (R97). Irreducible as `iterBody` is. -/
@[irreducible] def deriveBody (s : State) : State := rehashTimes iterCount (finalizeBody s)

/-- `REHASH` (R95). -/
def execRehash (s : State) : Host.Outcome State Fault Refusal :=
  runCommand rehashCheck (completing rehashBody) s

/-- `ITER`: the phase is checked once, before the first iteration (R96). -/
def execIter (s : State) : Host.Outcome State Fault Refusal := runCommand rehashCheck (completing iterBody) s

/-- `DERIVE` (R97). -/
def execDerive (s : State) : Host.Outcome State Fault Refusal :=
  runCommand finalizeCheck (completing deriveBody) s

end Sys2Proof.Machine
end

