-- ==== Sys2Proof/Machine/Encoder.lean ====
section
/-! DEFINITION. The output encoder (spec/43_output_encoder.md): the alphabet, `encode(d)`, `ENCODE` and `GEN`. -/

namespace Sys2Proof.Machine

/-- The alphabet `A[0..63]` as ASCII codes, index 0 first: `a..z`, `A..Z`, `1..9`, `0`, `-`, `=` (R103;
90_conflicts.md C2). -/
def alphabet : List Byte :=
  [0x61#8, 0x62#8, 0x63#8, 0x64#8, 0x65#8, 0x66#8, 0x67#8, 0x68#8, 0x69#8, 0x6A#8, 0x6B#8, 0x6C#8, 0x6D#8] ++
  [0x6E#8, 0x6F#8, 0x70#8, 0x71#8, 0x72#8, 0x73#8, 0x74#8, 0x75#8, 0x76#8, 0x77#8, 0x78#8, 0x79#8, 0x7A#8] ++
  [0x41#8, 0x42#8, 0x43#8, 0x44#8, 0x45#8, 0x46#8, 0x47#8, 0x48#8, 0x49#8, 0x4A#8, 0x4B#8, 0x4C#8, 0x4D#8] ++
  [0x4E#8, 0x4F#8, 0x50#8, 0x51#8, 0x52#8, 0x53#8, 0x54#8, 0x55#8, 0x56#8, 0x57#8, 0x58#8, 0x59#8, 0x5A#8] ++
  [0x31#8, 0x32#8, 0x33#8, 0x34#8, 0x35#8, 0x36#8, 0x37#8, 0x38#8, 0x39#8, 0x30#8, 0x2D#8, 0x3D#8]

/-- `MASK6`: the low 6 bits of a byte (R6, R102). -/
def mask6 : Byte := 0x3F#8

/-- The symbol of one digest byte: `A[b AND 0x3F]` (R102). A masked byte is below 64, so the default is never
taken. -/
def symbolOf (b : Byte) : Byte := alphabet.getD (b &&& mask6).toNat 0x00#8

/-- `encode(d)`: one symbol per digest byte, in digest order (R102), for a digest of 32 bytes; its value on a list of
another length is the model's (DESIGN CHOICE, unsafe, notes/assumptions/17.md). -/
def encodeDigest (d : List Byte) : List Byte := d.map symbolOf

/-- The body of `ENCODE`: `PW <- encode(DIGEST)`, `PV <- 1` (R104). -/
def encodeBody (s : State) : State :=
  { s with pw := memWrite s.pw 0 (encodeDigest (memRead s.digest 0 32)), pv := true }

/-- The body of `GEN`: `DERIVE`, then `ENCODE` without its check (R105). -/
def genBody (s : State) : State := encodeBody (deriveBody s)

/-- `ENCODE` (R104). -/
def execEncode (s : State) : Host.Outcome State Fault Refusal :=
  runCommand digestCheck (completing encodeBody) s

/-- `GEN` (R105). -/
def execGen (s : State) : Host.Outcome State Fault Refusal := runCommand finalizeCheck (completing genBody) s

end Sys2Proof.Machine
end

