-- ==== Sys2Proof/Machine/ReadOut.lean ====
section
/-! DEFINITION. Read-out and system commands (spec/44_readout_and_system.md): `NOP`, `RDDIG`, `RDPW`, `RDST`. -/

namespace Sys2Proof.Machine

/-- `NOP` (R111). -/
def execNop (s : State) : Host.Outcome State Fault Refusal := runCommand noCheck (completing id) s

/-- `RDDIG i`: `resp <- (0, DIGEST[i])` (R112). -/
def execRddig (i : Nat) (s : State) : Host.Outcome State Fault Refusal :=
  runCommand (readDigestCheck i) (fun s => respond 0#4 (byteAt s.digest i) s) s

/-- `RDPW i`: `resp <- (0, PW[i])` (R113). -/
def execRdpw (i : Nat) (s : State) : Host.Outcome State Fault Refusal :=
  runCommand (readPasswordCheck i) (fun s => respond 0#4 (byteAt s.pw i) s) s

/-- `RDST`: `resp <- (0, STATUS)`, in the faulted state too (R114, R119 line 1, R121). -/
def execRdst (s : State) : Host.Outcome State Fault Refusal := .next (respond 0#4 (statusWord s) s)

end Sys2Proof.Machine
end

