-- ==== Sys2Proof/Machine/Dispatch.lean ====
section
/-! DEFINITION. One arm per command: the meaning of each row of spec/opcode_table.json. -/

namespace Sys2Proof.Machine

def exec (i : Instr) (s : State) : Host.Outcome State Fault Refusal :=
  match i with
  | .nop => Sys2Proof.Machine.execNop s
  | .init => Sys2Proof.Machine.execInit s
  | .absorb b => Sys2Proof.Machine.execAbsorb b s
  | .sep => Sys2Proof.Machine.execSep s
  | .final => Sys2Proof.Machine.execFinal s
  | .rehash => Sys2Proof.Machine.execRehash s
  | .iter => Sys2Proof.Machine.execIter s
  | .derive => Sys2Proof.Machine.execDerive s
  | .encode => Sys2Proof.Machine.execEncode s
  | .gen => Sys2Proof.Machine.execGen s
  | .rddig idx => Sys2Proof.Machine.execRddig idx s
  | .rdpw idx => Sys2Proof.Machine.execRdpw idx s
  | .rdst => Sys2Proof.Machine.execRdst s

end Sys2Proof.Machine
end

