-- ==== Sys2Proof/Machine/Step.lean ====
section
/-! DEFINITION. One step: the block takes the next event at its inputs and runs it to completion (R59, R119). -/

namespace Sys2Proof.Machine

/-- A command word: decoded, then run (R66, R119). -/
def runWord (w : CmdWord) (s : State) : Host.Outcome State Fault Refusal :=
  match decode w with
  | .ok i => exec i s
  | .error _ => execIllegal s

/-- One event at the inputs: an accepted command word, or `rst`. -/
def runEvent (e : PortEvent) (s : State) : Host.Outcome State Fault Refusal :=
  match e with
  | .command w => runWord w s
  | .reset => .next (applyReset s)

/-- One step of the block (R59). While the host presents nothing the state does not change. -/
def step (s : State) : Host.Outcome State Fault Refusal :=
  match takeEvent s with
  | none => .next s
  | some (e, s') => runEvent e s'

/-- `s` with the low `nbits` bits of `w` presented as the next command word: the block takes its commands from the
host's port, not from a memory (R25, R58; notes/assumptions/3.md). -/
def State.withFetchWord (s : State) (nbits w : Nat) : State := presentWord (BitVec.ofNat 16 (w % 2 ^ nbits)) s

end Sys2Proof.Machine
end

