-- ==== Sys2Proof/Machine/Assembler.lean ====
section
/-! DEFINITION. The pseudo-instructions of the spec's command notation (R60 to R64) as the commands they expand to,
and the command words a list of lines assembles to. -/

namespace Sys2Proof.Machine

/-- One line of the notation: a command, or a pseudo-instruction. A quoted string is the sequence of its ASCII
codes, with no terminator (R9, R61). -/
inductive AsmLine where
  | command (i : Instr)
  | msg (text : List Byte)
  | hash (text : List Byte)
  | genpw (ident sec : List Byte)
  | derivepw (ident sec : List Byte)
  | rddigest
  | rdpass
deriving DecidableEq, Repr

/-- `MSG`: one `ABSORB` per byte, in order (R61). -/
def expandMsg (text : List Byte) : List Instr := text.map .absorb

/-- The Derivation Input sent to the block: the identifier, `SEP`, the secret (R63, R107). -/
def expandInput (ident sec : List Byte) : List Instr := expandMsg ident ++ [.sep] ++ expandMsg sec

/-- The commands of one line (R61 to R64). -/
def expandLine : AsmLine → List Instr
  | .command i => [i]
  | .msg text => expandMsg text
  | .hash text => [.init] ++ expandMsg text ++ [.final]
  | .genpw ident sec => [.init] ++ expandInput ident sec ++ [.gen]
  | .derivepw ident sec => [.init] ++ expandInput ident sec ++ [.derive]
  | .rddigest => (List.range 32).map .rddig
  | .rdpass => (List.range 32).map .rdpw

/-- The command words of a list of lines: one word per command (R60). A line whose command is not well formed, an index
above 255, has no word in the spec; the word it gets here is the model's (DESIGN CHOICE, unsafe,
notes/assumptions/15.md). -/
def assemble (lines : List AsmLine) : List CmdWord := (lines.flatMap expandLine).map encode

end Sys2Proof.Machine
end

