-- ==== Sys2Proof/Machine/FunctionLevel.lean ====
section
/-! DEFINITION. The function level of the spec (R4, D2): `process`, `Hash`, `derive` and `generate_password` as pure
functions over byte sequences. The commands do not call them; that the two levels agree is a claim (R107). -/

namespace Sys2Proof.Machine

/-- `process(state, bytes)`: the bytes appended one at a time, in order (R81, R89). Past `MAXLEN` bytes the spec gives no
result; that the fold goes on there is the model's (DESIGN CHOICE, notes/assumptions/14.md). On a spent state, `FIN = 1`,
the source does not say what `process` does (R92, N5), and D10 decides the command level alone; that the fold appends
there as in the absorbing phase is the model's (DESIGN CHOICE, unsafe, notes/assumptions/16.md). -/
def processBytes (bytes : List Byte) (s : State) : State := bytes.foldl (fun s b => appendByte b s) s

/-- The first `n` 64-byte blocks of a byte sequence, in order (R79, R90). -/
def cutBlocks : Nat → List Byte → List (List Byte)
  | 0, _ => []
  | n + 1, m => m.take 64 :: cutBlocks n (m.drop 64)

/-- `chain(B_0 .. B_(k-1))`: the blocks compressed in order from `IV`; `chain()` is `IV` (R79). -/
def chain (blocks : List (List Byte)) : Vector Word 8 := blocks.foldl compress iv

/-- `z = (55 - len(m)) mod 64`, the number of zero bytes in the padded message (R90). -/
def messageZeros (len : Nat) : Nat := (119 - len % 64) % 64

/-- The padded message `m ++ [0x80] ++ zeros(z) ++ BE64(8 * len(m))` (R90), whose domain is `len(m) <= MAXLEN`. DESIGN
CHOICE, unsafe (notes/assumptions/14.md): on a longer message the spec gives no value (C7, D9) and says not to assume
wrap-around (N4); this total function has one, with `8 * len(m)` taken modulo `2^64`. -/
def paddedMessage (m : List Byte) : List Byte :=
  m ++ [0x80#8] ++ zeros (messageZeros m.length) ++ be64 (BitVec.ofNat 64 (8 * m.length))

/-- The blocks `B_0 .. B_(k-1)` of the padded message (R90). -/
def messageBlocks (m : List Byte) : List (List Byte) :=
  cutBlocks ((paddedMessage m).length / 64) (paddedMessage m)

/-- `Hash(m) = serialize(chain(B_0 .. B_(k-1)))`, for `len(m) <= MAXLEN` (R90); its value on a longer message is the
model's (notes/assumptions/14.md). -/
def hashMessage (m : List Byte) : List Byte := serialize (chain (messageBlocks m))

/-- `d_k` of R94 from `d_0`: `n` hashes of the raw digest bytes (R94 step 3, R99). -/
def hashTimes : Nat → List Byte → List Byte
  | 0, d => d
  | n + 1, d => hashTimes n (hashMessage d)

/-- The Derivation Input `id ++ [0x7C] ++ sec` (R93). -/
def derivationInput (ident sec : List Byte) : List Byte := ident ++ [sepByte] ++ sec

/-- `derive(id, sec) = d_1000` (R94), for a Derivation Input of at most `MAXLEN` bytes (R11, R90); its value on a longer
one is the model's (notes/assumptions/14.md). -/
def deriveDigest (ident sec : List Byte) : List Byte := hashTimes iterCount (hashMessage (derivationInput ident sec))

/-- `generate_password(id, sec) = encode(derive(id, sec))` (R106), for a Derivation Input of at most `MAXLEN` bytes (R11,
R90); its value on a longer one is the model's (notes/assumptions/14.md). -/
def generatePassword (ident sec : List Byte) : List Byte := encodeDigest (deriveDigest ident sec)

end Sys2Proof.Machine
end

