-- ==== Sys2Proof/Safety.lean ====
section
/-! DEFINITION. The terms claims about PWOM-CORE are stated in: sequences of commands, the opcode map as the spec
prints it, the faults of R118 and R119 read off the spec's tables, the write sets of R30, the invariants of R28 and
the states R32 says cannot be told apart. None of it is used by the machine. -/

namespace Sys2Proof.Machine

/-! ### Sequences of commands -/

/-- The state after the commands `c1, ..., cn`, each run to completion in order (R46). -/
def runAll : List Instr → State → Host.Outcome State Fault Refusal
  | [], s => .next s
  | i :: rest, s =>
    match exec i s with
    | .next t => runAll rest t
    | .fault r => .fault r
    | .refused r => .refused r

/-! ### Word operators -/

/-- `ROTR_n(a) = (a >> n) OR ((a << (32 - n)) mod 2^32)`, for `0 < n < 32`, as R8 writes it. -/
def rotr (n : Nat) (a : Word) : Word := (a >>> n) ||| (a <<< (32 - n))

/-- The block of the one-block message "abc" (the example of R75 and R85). -/
def abcBlock : List Byte := [0x61, 0x62, 0x63, 0x80] ++ zeros 52 ++ [0, 0, 0, 0, 0, 0, 0, 0x18]

/-- The number a byte sequence writes, most significant byte first (R9). -/
def bigEndian (bytes : List Byte) : Nat := bytes.foldl (fun n b => n * 256 + b.toNat) 0

/-! ### The opcode map and the response, as the spec prints them -/

/-- A row of the opcode map of R53: the command of an operand field, `match` and `mask`. -/
structure OpcodeRow where
  command : Byte → Instr
  rowMatch : CmdWord
  rowMask : CmdWord

/-- The 13 rows of R53, numeral by numeral. -/
def opcodeMap : List OpcodeRow :=
  [⟨fun _ => .nop, 0x0000, 0xFFFF⟩, ⟨fun _ => .init, 0x0100, 0xFFFF⟩, ⟨.absorb, 0x0200, 0xFF00⟩,
   ⟨fun _ => .sep, 0x0300, 0xFFFF⟩, ⟨fun _ => .final, 0x0400, 0xFFFF⟩, ⟨fun _ => .rehash, 0x0500, 0xFFFF⟩,
   ⟨fun _ => .iter, 0x0600, 0xFFFF⟩, ⟨fun _ => .derive, 0x0700, 0xFFFF⟩, ⟨fun _ => .encode, 0x0800, 0xFFFF⟩,
   ⟨fun _ => .gen, 0x0900, 0xFFFF⟩, ⟨fun b => .rddig b.toNat, 0x0A00, 0xFF00⟩,
   ⟨fun b => .rdpw b.toNat, 0x0B00, 0xFF00⟩, ⟨fun _ => .rdst, 0x0C00, 0xFFFF⟩]

/-- A word selects a row when `(w AND mask) = match` (R53). -/
abbrev OpcodeRow.Selects (r : OpcodeRow) (w : CmdWord) : Prop := w &&& r.rowMask = r.rowMatch

/-- The word is illegal: it decodes to no command (R55, R66). -/
def IllegalWord (w : CmdWord) : Prop := ∃ e, decode w = .error e

/-- The state after fault entry with the code `code`, as R120 writes it. -/
def faulted (code : BitVec 4) (s : State) : State :=
  { s with err := true, ecode := code, resp := some (code ++ 0x00#8) }

/-- The state after a refused command, as R121 writes it. -/
def refused (s : State) : State := { s with resp := some (s.ecode ++ 0x00#8) }

/-- A format Z command: `op` with `imm = 0x00` decodes to it, and any other `imm` faults with `E_ILLEGAL`
(R51, R55). -/
def FormatZWord (op : Byte) (i : Instr) : Prop :=
  decode (op ++ 0x00#8) = .ok i ∧
    ∀ imm : Byte, imm ≠ 0x00#8 → ∀ s : State, s.err = false → runWord (op ++ imm) s = .next (faulted 1 s)

end Sys2Proof.Machine

namespace Sys2Proof

/-! ### Which commands do what: R30, R118, R119 -/

/-- `ABSORB`, `SEP` (R119). -/
def Instr.appends : Instr → Bool
  | .absorb _ | .sep => true
  | .nop | .init | .final | .rehash | .iter | .derive | .encode | .gen | .rddig _ | .rdpw _ | .rdst => false

/-- `FINAL`, `DERIVE`, `GEN`: the commands that finalize the message (R119 line 3). -/
def Instr.finalizes : Instr → Bool
  | .final | .derive | .gen => true
  | .nop | .init | .absorb _ | .sep | .rehash | .iter | .encode | .rddig _ | .rdpw _ | .rdst => false

/-- `REHASH`, `ITER` (R119 line 3). -/
def Instr.rehashes : Instr → Bool
  | .rehash | .iter => true
  | .nop | .init | .absorb _ | .sep | .final | .derive | .encode | .gen | .rddig _ | .rdpw _ | .rdst => false

/-- `NOP`, `RDDIG`, `RDPW`, `RDST`: the commands that write no state (R30, R115). -/
def Instr.readsOnly : Instr → Bool
  | .nop | .rddig _ | .rdpw _ | .rdst => true
  | .init | .absorb _ | .sep | .final | .rehash | .iter | .derive | .encode | .gen => false

/-- The index operand of a read command (R51 format X). -/
def Instr.readIndex : Instr → Option Nat
  | .rddig i | .rdpw i => some i
  | .nop | .init | .absorb _ | .sep | .final | .rehash | .iter | .derive | .encode | .gen | .rdst => none

/-- The commands that need a digest (R119 line 4). -/
def Instr.needsDigest : Instr → Bool
  | .encode | .rddig _ => true
  | .nop | .init | .absorb _ | .sep | .final | .rehash | .iter | .derive | .gen | .rdpw _ | .rdst => false

/-- The command that needs a password (R119 line 4). -/
def Instr.needsPassword : Instr → Bool
  | .rdpw _ => true
  | .nop | .init | .absorb _ | .sep | .final | .rehash | .iter | .derive | .encode | .gen | .rddig _ | .rdst => false

/-- The commands of R30 that write `H`. -/
def Instr.writesH (i : Instr) : Bool :=
  i == .init || i.appends || i.finalizes || i.rehashes

/-- The commands of R30 that write `LEN` and `BUFLEN`; `FINAL` does not. -/
def Instr.writesLen (i : Instr) : Bool :=
  i == .init || i.appends || i == .derive || i == .gen || i.rehashes

/-- The commands of R30 that write `BUF[0..31]`. -/
def Instr.writesBufHead (i : Instr) : Bool := i == .derive || i == .gen || i.rehashes

/-- The commands of R30 that write `DIGEST`, and `DV` with it. -/
def Instr.writesDigest (i : Instr) : Bool := i.finalizes || i.rehashes

/-- The commands of R30 that write `PW`. -/
def Instr.writesPw (i : Instr) : Bool := i == .encode || i == .gen

end Sys2Proof

namespace Sys2Proof.Machine

/-- The first line of R119, 3 to 6, that applies to a command in an unfaulted state, by its code (R118);
`none` where the command is performed. -/
def firstFault (i : Instr) (s : State) : Option (BitVec 4) :=
  if i.appends && s.fin || i.finalizes && s.fin || i.rehashes && !s.fin then some 2
  else if i.needsDigest && !s.dv then some 3
  else if i.needsPassword && !s.pv then some 4
  else if i.readIndex.any (fun n => decide (31 < n)) then some 5
  else if i.appends && decide (s.len = s.config.maxLen) then some 6
  else none

/-! ### What a command leaves -/

/-- `t` is `s` with the byte `b` appended, as R83 says it: stored at `BUF[BUFLEN]`, counted, the block compressed at
the 64th byte; nothing else changes but the response. -/
structure Appended (b : Byte) (s t : State) : Prop where
  len : t.len = s.len + 1
  buf : ∀ j : Fin 64, t.buf[j] = if j.val = s.bufLen.toNat then b else s.buf[j]
  full : s.bufLen = 63 → t.bufLen = 0 ∧ t.h = compress s.h t.buf.toList
  partly : s.bufLen ≠ 63 → t.bufLen = s.bufLen + 1 ∧ t.h = s.h
  frame : t = { s with h := t.h, len := t.len, buf := t.buf, bufLen := t.bufLen, resp := some 0 }

/-- `t` is `s` finalized, as R87 says it: the padded tail compressed, the digest latched, `FIN`, `DV`, `PV` set;
nothing else changes but the response. -/
structure Finalized (s t : State) : Prop where
  one : s.bufLen.toNat ≤ 55 → t.h = compress s.h (pad s)
  two : 56 ≤ s.bufLen.toNat → t.h = compress (compress s.h ((pad s).take 64)) ((pad s).drop 64)
  digest : t.digest.toList = t.h.toList.flatMap be32
  frame : t = { s with h := t.h, digest := t.digest, fin := true, dv := true, pv := false, resp := some 0 }

/-- `t` is `s` after one rehash, as R95 says it. -/
structure Rehashed (s t : State) : Prop where
  h : t.h = compress iv (s.digest.toList ++ [0x80] ++ zeros 23 ++ [0, 0, 0, 0, 0, 0, 1, 0])
  digest : t.digest.toList = t.h.toList.flatMap be32
  buf : ∀ j : Fin 64, t.buf[j] = if hj : j.val < 32 then s.digest[j.val] else s.buf[j]
  frame : t = { s with h := t.h, len := 32, buf := t.buf, bufLen := 32, digest := t.digest, fin := true,
                       dv := true, pv := false, resp := some 0 }

/-- `t` is `s` encoded, as R104 says it: `PW[i] = A[DIGEST[i] AND 0x3F]`. -/
structure Encoded (s t : State) : Prop where
  pw : ∀ i : Fin 32, alphabet[(s.digest[i] &&& 0x3F).toNat]? = some t.pw[i]
  frame : t = { s with pw := t.pw, pv := true, resp := some 0 }

/-- The hash state of `s` is that of the message `m`, appended since the last `INIT` or reset (R28 (g), R79):
`H` is the chain of its full blocks and `BUF[0..BUFLEN-1]` its remaining bytes. -/
structure Absorbs (s : State) (m : List Byte) : Prop where
  fin : s.fin = false
  len : s.len.toNat = m.length
  bufLen : s.bufLen.toNat = m.length % 64
  h : s.h = chain (cutBlocks (m.length / 64) m)
  buf : memRead s.buf 0 s.bufLen.toNat = m.drop (64 * (m.length / 64))

/-! ### Invariants and indistinguishable states -/

/-- The invariants of R28, (a) to (g), with the legality of the open parameter. -/
structure Inv (s : State) : Prop where
  config : s.config.Legal
  bufLen : s.bufLen.toNat = s.len.toNat % 64
  len : s.len.toNat ≤ s.config.maxLen.toNat
  finDv : s.fin = true → s.dv = true
  pvEncoded : s.pv = true → s.dv = true ∧ s.pw.toList = encodeDigest s.digest.toList
  noError : s.err = false → s.ecode = 0
  error : s.err = true → 1 ≤ s.ecode.toNat ∧ s.ecode.toNat ≤ 6
  finDigest : s.fin = true → s.digest.toList = serialize s.h
  absorbing : s.fin = false → ∃ m, Absorbs s m

/-- Two states that differ only in cells that hold no value (R32): `BUF` at or above `BUFLEN`, `DIGEST` while
`DV = 0`, `PW` while `PV = 0`. -/
structure SameValues (s t : State) : Prop where
  rest : t = { s with buf := t.buf, digest := t.digest, pw := t.pw }
  buf : memRead t.buf 0 s.bufLen.toNat = memRead s.buf 0 s.bufLen.toNat
  digest : s.dv = true → t.digest = s.digest
  pw : s.pv = true → t.pw = s.pw

/-- A command of the read-out part of the source's operation, `known` saying that `PW` holds a value:
`REHASH`, `ITER`, `ENCODE`, `RDST`, `RDDIG i`, and `RDPW i` while `known`, with `i <= 31` (R129). -/
def readOutAdmits (known : Bool) : Instr → Bool
  | .rehash | .iter | .encode | .rdst => true
  | .rddig i => decide (i ≤ 31)
  | .rdpw i => known && decide (i ≤ 31)
  | .nop | .init | .absorb _ | .sep | .final | .derive | .gen => false

/-- Whether `PW` holds a value after a command of the read-out part: an `ENCODE` gives one, a finalization takes it
away (R126, R129). -/
def passwordKnown (known : Bool) (i : Instr) : Bool :=
  if i == .encode then true else if i.rehashes then false else known

/-- A read-out sequence as R129 describes it. -/
def ReadOutSequence : Bool → List Instr → Prop
  | _, [] => True
  | known, i :: rest => readOutAdmits known i = true ∧ ReadOutSequence (passwordKnown known i) rest

end Sys2Proof.Machine
end

