-- ==== Sys2Proof/Certificates/Slice0/Obligations.lean ====
section
/-! DEFINITION. The statements about the model, one `def Obligations.<Name> : Prop` each; each docstring names the
rule of spec/ it comes from. Nothing is proved here. Throughout, the response of a command is what it leaves in the
model's field `resp` (notes/assumptions/4.md), and what the host presents is the model's field `port`
(notes/assumptions/3.md). -/

open Sys2Proof Sys2Proof.Machine

/-! ### Encoding (30_encoding.md) -/

/-- R53, R66: decoding the word of a well-formed command gives it back, with every operand. -/
def Obligations.DecodeInvertsEncode : Prop :=
  ∀ i : Instr, i.wellFormed = true → decode (encode i) = .ok i

/-- R53, R66: a word that decodes to a command is that command's only word, and the command is well formed. -/
def Obligations.EncodeInvertsDecode : Prop :=
  ∀ (w : CmdWord) (i : Instr), decode w = .ok i → encode i = w ∧ i.wellFormed = true

/-- R53: a word selects a row when `(w AND mask) = match`; the rows are disjoint; a word that selects no row is
illegal. -/
def Obligations.OpcodeMapDecidesEveryWord : Prop :=
  (∀ w : CmdWord, ∀ r ∈ opcodeMap, r.Selects w → decode w = .ok (r.command (w.setWidth 8))) ∧
  (∀ w : CmdWord, (∀ r ∈ opcodeMap, ¬ r.Selects w) → IllegalWord w) ∧
  opcodeMap.Pairwise (fun r r' => ∀ w : CmdWord, ¬ (r.Selects w ∧ r'.Selects w))

/-- R55, R124: the illegal words are those of (a) and (b); an illegal word faults with `E_ILLEGAL` and changes
nothing else; 778 of the 65536 words are legal to decode. -/
def Obligations.IllegalWordsFault : Prop :=
  (∀ w : CmdWord, IllegalWord w ↔
    (0x0D ≤ w.toNat / 256 ∨
      (w.toNat / 256 ∈ [0x00, 0x01, 0x03, 0x04, 0x05, 0x06, 0x07, 0x08, 0x09, 0x0C] ∧ w.toNat % 256 ≠ 0))) ∧
  (∀ (w : CmdWord) (s : State), IllegalWord w → s.err = false → runWord w s = .next (faulted 1 s)) ∧
  ((List.range 65536).filter (fun n => (decodeTableWord 16 n).isSome)).length = 778

/-- R52: the operand of format B is the byte `imm`; the index of format X is `imm` as an unsigned integer, compared
with 31 and not masked; format Z has no operand. -/
def Obligations.OperandsAreTheImmField : Prop :=
  (∀ b : Byte, decode (0x02#8 ++ b) = .ok (.absorb b)) ∧
  (∀ b : Byte, decode (0x0A#8 ++ b) = .ok (.rddig b.toNat) ∧ decode (0x0B#8 ++ b) = .ok (.rdpw b.toNat)) ∧
  (∀ (b : Byte) (s : State), s.err = false → s.dv = true → 31 < b.toNat →
    runWord (0x0A#8 ++ b) s = .next (faulted 5 s)) ∧
  (∀ (b : Byte) (s : State), s.err = false → s.pv = true → 31 < b.toNat →
    runWord (0x0B#8 ++ b) s = .next (faulted 5 s)) ∧
  (FormatZWord 0x00 .nop ∧ FormatZWord 0x01 .init ∧ FormatZWord 0x03 .sep ∧ FormatZWord 0x04 .final ∧
    FormatZWord 0x05 .rehash ∧ FormatZWord 0x06 .iter ∧ FormatZWord 0x07 .derive ∧ FormatZWord 0x08 .encode ∧
    FormatZWord 0x09 .gen ∧ FormatZWord 0x0C .rdst)

/-- 95_test_vectors.md section 2.11: words written out from the encoding decode to the commands they stand for. -/
def Obligations.SpecWordsDecode : Prop :=
  decode 0x0000 = .ok .nop ∧ decode 0x0100 = .ok .init ∧ decode 0x027C = .ok (.absorb 0x7C) ∧
  decode 0x0300 = .ok .sep ∧ decode 0x0400 = .ok .final ∧ decode 0x0500 = .ok .rehash ∧
  decode 0x0600 = .ok .iter ∧ decode 0x0700 = .ok .derive ∧ decode 0x0800 = .ok .encode ∧
  decode 0x0900 = .ok .gen ∧ decode 0x0A1F = .ok (.rddig 31) ∧ decode 0x0AFF = .ok (.rddig 255) ∧
  decode 0x0B1F = .ok (.rdpw 31) ∧ decode 0x0C00 = .ok .rdst ∧
  IllegalWord 0x0C01 ∧ IllegalWord 0x0D00 ∧ IllegalWord 0x0301 ∧ IllegalWord 0x8000 ∧ IllegalWord 0xFFFF

/-! ### The step and the ports -/

/-- R59, R66: a step whose next event is a command word runs the decoded command, on the state with that word taken
from the port; an illegal word faults. That the inputs are a list, one event a step, is the model's choice
(notes/assumptions/3.md). -/
def Obligations.StepRunsTheDecodedCommand : Prop :=
  ∀ (s : State) (w : CmdWord) (rest : List PortEvent), s.port = .command w :: rest →
    (∀ i : Instr, decode w = .ok i → step s = exec i { s with port := rest }) ∧
    (IllegalWord w → s.err = false → step s = .next (faulted 1 { s with port := rest })) ∧
    (IllegalWord w → s.err = true → step s = .next (refused { s with port := rest }))

/-- R59: the host may wait any time between commands; the state does not change while it waits. Waiting as
the empty list is the model's choice (notes/assumptions/3.md). -/
def Obligations.StateKeptWhileTheHostWaits : Prop := ∀ s : State, s.port = [] → step s = .next s

/-- R133, R134, R135: `rst` gives the reset state from every state, a faulted one too, with no response. What `BUF`,
`DIGEST` and `PW` then hold has no value (R31) and nothing is said of it. That the parameter and the later events are
kept, and that no response is `none`, are the model's (notes/assumptions/3.md, 4.md, 5.md). -/
def Obligations.RstGivesTheResetState : Prop :=
  ∀ (s : State) (rest : List PortEvent), s.port = .reset :: rest →
    ∃ t, step s = .next t ∧
      t = { State.reset with
              buf := t.buf, digest := t.digest, pw := t.pw, config := s.config, port := rest }

/-- R31, R134, R74: the values the spec gives for reset. -/
def Obligations.ResetValues : Prop :=
  State.reset.h.toList = [0x6a09e667, 0xbb67ae85, 0x3c6ef372, 0xa54ff53a, 0x510e527f, 0x9b05688c, 0x1f83d9ab, 0x5be0cd19] ∧
  State.reset.len = 0 ∧ State.reset.bufLen = 0 ∧ State.reset.fin = false ∧ State.reset.dv = false ∧
  State.reset.pv = false ∧ State.reset.err = false ∧ State.reset.ecode = 0 ∧ statusWord State.reset = 0x00

/-- R46, R59, R60: presenting the words of commands at the port and stepping once for each gives the state after the
commands run in order; the port is the model's (notes/assumptions/3.md). -/
def Obligations.PortRunsCommandsInOrder : Prop :=
  ∀ (is : List Instr) (s : State) (rest : List PortEvent), (∀ i ∈ is, i.wellFormed = true) →
    Host.Core.run core is.length { s with port := is.map (fun i => .command (encode i)) ++ rest } =
      runAll is { s with port := rest }

/-- R54: every command word, legal or not, in every state, produces a response `(e, d)`: refused with `ECODE`, or
faulting with its own non-zero code, both with `d = 0x00`; or completing with `e = 0`, and then `d` is the byte read by
the three reads and 0x00 for every other command. -/
def Obligations.EveryWordGetsOneResponse : Prop :=
  ∀ (w : CmdWord) (s : State), ∃ (t : State) (e : BitVec 4) (d : Byte), runWord w s = .next t ∧ t.resp = some (e ++ d) ∧
    ((s.err = true ∧ w ≠ 0x0C00 ∧ e = s.ecode ∧ d = 0x00#8) ∨
     (s.err = false ∧ t.err = true ∧ e = t.ecode ∧ e ≠ 0#4 ∧ d = 0x00#8) ∨
     (t.err = s.err ∧ e = 0#4 ∧
       ((∃ i, i ≤ 31 ∧ decode w = .ok (.rddig i) ∧ s.digest[i]? = some d) ∨
        (∃ i, i ≤ 31 ∧ decode w = .ok (.rdpw i) ∧ s.pw[i]? = some d) ∨
        (w = 0x0C00 ∧ d = statusWord s) ∨
        (∃ i, decode w = .ok i ∧ i.readIndex = none ∧ i ≠ .rdst ∧ d = 0x00#8))))

/-! ### The compression function (40_compression.md) -/

/-- R67. -/
def Obligations.ChSelectsBits : Prop :=
  (∀ x y z : Word, ch x y z = (x &&& y) ^^^ (~~~x &&& z)) ∧
  (∀ (x y z : Word) (k : Nat), (ch x y z).getLsbD k = if x.getLsbD k then y.getLsbD k else z.getLsbD k) ∧
  (∀ y z : Word, ch 0 y z = z) ∧ (∀ y z : Word, ch 0xFFFFFFFF y z = y) ∧ (∀ x y : Word, ch x y y = y) ∧
  ch 0x510E527F 0x9B05688C 0x1F83D9AB = 0x1F85C98C

/-- R68. -/
def Obligations.MajIsTheMajority : Prop :=
  (∀ x y z : Word, maj x y z = (x &&& y) ^^^ (x &&& z) ^^^ (y &&& z)) ∧
  (∀ (x y z : Word) (k : Nat), (maj x y z).getLsbD k =
    decide (2 ≤ (x.getLsbD k).toNat + (y.getLsbD k).toNat + (z.getLsbD k).toNat)) ∧
  (∀ x z : Word, maj x x z = x) ∧ (∀ y z : Word, maj 0 y z = y &&& z) ∧
  (∀ y z : Word, maj 0xFFFFFFFF y z = y ||| z) ∧
  (∀ x y z : Word, maj x y z = maj y x z ∧ maj x y z = maj x z y) ∧
  maj 0x6A09E667 0xBB67AE85 0x3C6EF372 = 0x3A6FE667

/-- R69 to R72, with the rotation of R8. -/
def Obligations.SigmaFunctions : Prop :=
  (∀ x : Word, bsig0 x = rotr 2 x ^^^ rotr 13 x ^^^ rotr 22 x) ∧
  (∀ x : Word, bsig1 x = rotr 6 x ^^^ rotr 11 x ^^^ rotr 25 x) ∧
  (∀ x : Word, ssig0 x = rotr 7 x ^^^ rotr 18 x ^^^ (x >>> 3)) ∧
  (∀ x : Word, ssig1 x = rotr 17 x ^^^ rotr 19 x ^^^ (x >>> 10)) ∧
  (bsig0 0 = 0 ∧ bsig0 0xFFFFFFFF = 0xFFFFFFFF ∧ bsig0 1 = 0x40080400 ∧ bsig0 0x80000000 = 0x20040200 ∧
    bsig0 0x6A09E667 = 0xCE20B47E) ∧
  (bsig1 0 = 0 ∧ bsig1 0xFFFFFFFF = 0xFFFFFFFF ∧ bsig1 1 = 0x04200080 ∧ bsig1 0x80000000 = 0x02100040 ∧
    bsig1 0x510E527F = 0x3587272B) ∧
  (ssig0 0 = 0 ∧ ssig0 0xFFFFFFFF = 0x1FFFFFFF ∧ ssig0 1 = 0x02004000 ∧ ssig0 0x80000000 = 0x11002000 ∧
    ssig0 0x61626380 = 0x940E90EF) ∧
  (ssig1 0 = 0 ∧ ssig1 0xFFFFFFFF = 0x003FFFFF ∧ ssig1 1 = 0x0000A000 ∧ ssig1 0x80000000 = 0x00205000 ∧
    ssig1 0x00000018 = 0x000F0000)

/-- R73: `K[i]` is the cube root of `p_i * 2^96`, rounded down, modulo `2^32`, for the first 64 primes. -/
def Obligations.RoundConstantsAreCubeRoots : Prop :=
  roundConstants.length = 64 ∧ ((List.range 312).filter (fun n => decide n.Prime)).length = 64 ∧
  ∀ i < 64, ∃ p c : Nat, ((List.range 312).filter (fun n => decide n.Prime))[i]? = some p ∧
    c ^ 3 ≤ p * 2 ^ 96 ∧ p * 2 ^ 96 < (c + 1) ^ 3 ∧ roundConstants[i]? = some (BitVec.ofNat 32 c)

/-- R74: `IV[i]` is the square root of `p_i * 2^64`, rounded down, modulo `2^32`, for the first 8 primes; `H` takes
these values at `INIT` and at reset. -/
def Obligations.InitialValuesAreSquareRoots : Prop :=
  ((List.range 20).filter (fun n => decide n.Prime)).length = 8 ∧
  (∀ i : Fin 8, ∃ p c : Nat, ((List.range 20).filter (fun n => decide n.Prime))[i.val]? = some p ∧
    c ^ 2 ≤ p * 2 ^ 64 ∧ p * 2 ^ 64 < (c + 1) ^ 2 ∧ iv[i] = BitVec.ofNat 32 c) ∧
  State.reset.h = iv ∧
  (∀ s : State, s.err = false → ∃ t, exec .init s = .next t ∧ t.h = iv)

/-- R75, R39: the first 16 words are the block's big-endian words and the others follow the recurrence, with sums
modulo `2^32`. -/
def Obligations.ScheduleFollowsTheRecurrence : Prop :=
  (∀ blk : List Byte, blk.length = 64 →
    (schedule blk).length = 64 ∧
    (∀ t < 16, ((schedule blk).getD t 0).toNat = bigEndian ((blk.drop (4 * t)).take 4)) ∧
    (∀ t, 16 ≤ t → t < 64 → (schedule blk).getD t 0 =
      ssig1 ((schedule blk).getD (t - 2) 0) + (schedule blk).getD (t - 7) 0 +
        ssig0 ((schedule blk).getD (t - 15) 0) + (schedule blk).getD (t - 16) 0)) ∧
  (∀ t < 64, (schedule (zeros 64)).getD t 1 = 0) ∧
  ((schedule abcBlock).getD 0 0 = 0x61626380 ∧ (∀ t, 1 ≤ t → t ≤ 14 → (schedule abcBlock).getD t 1 = 0) ∧
    (schedule abcBlock).getD 15 0 = 0x00000018 ∧ (schedule abcBlock).getD 16 0 = 0x61626380 ∧
    (schedule abcBlock).getD 17 0 = 0x000F0000 ∧ (schedule abcBlock).getD 18 0 = 0x7DA86405 ∧
    (schedule abcBlock).getD 19 0 = 0x600003C6 ∧ (schedule abcBlock).getD 63 0 = 0x12B1EDEB)

/-- R76: the eight new working words, from the old ones, and the example. -/
def Obligations.RoundStep : Prop :=
  (∀ (k w a b c d e f g h : Word), ∃ t1 t2 : Word,
    t1 = h + bsig1 e + ch e f g + k + w ∧ t2 = bsig0 a + maj a b c ∧
    round k w ⟨a, b, c, d, e, f, g, h⟩ = ⟨t1 + t2, a, b, c, d + t1, e, f, g⟩) ∧
  round 0x428A2F98 0x61626380 (workingOf iv) =
    ⟨0x5D6AEBCD, 0x6A09E667, 0xBB67AE85, 0x3C6EF372, 0xFA2A4622, 0x510E527F, 0x9B05688C, 0x1F83D9AB⟩

/-- R77: `COMPRESS` runs the 64 rounds with `K[t]` and `W[t]` from the words of `H`, and adds the working words to the
values `H` had before; with the three examples. -/
def Obligations.CompressRunsSixtyFourRounds : Prop :=
  (∀ (h : Vector Word 8) (blk : List Byte), blk.length = 64 →
    ∃ v : Nat → Working, v 0 = ⟨h[0], h[1], h[2], h[3], h[4], h[5], h[6], h[7]⟩ ∧
      (∀ t < 64, v (t + 1) = round (roundConstants.getD t 0) ((schedule blk).getD t 0) (v t)) ∧
      compress h blk = #v[h[0] + (v 64).a, h[1] + (v 64).b, h[2] + (v 64).c, h[3] + (v 64).d,
        h[4] + (v 64).e, h[5] + (v 64).f, h[6] + (v 64).g, h[7] + (v 64).h]) ∧
  (compress iv (zeros 64)).toList =
    [0xda5698be, 0x17b9b469, 0x62335799, 0x779fbeca, 0x8ce5d491, 0xc0d26243, 0xbafef9ea, 0x1837a9d8] ∧
  (compress (Vector.replicate 8 0) (zeros 64)).toList =
    [0x7ca51614, 0x425c3ba8, 0xce54dd2f, 0xc2020ae7, 0xb6e574d1, 0x98136d0f, 0xae7e26cc, 0xbf0be7a6] ∧
  (compress iv abcBlock).toList =
    [0xba7816bf, 0x8f01cfea, 0x414140de, 0x5dae2223, 0xb00361a3, 0x96177a9c, 0xb410ff61, 0xf20015ad]

/-! ### The hash state machine (41_hash_state_machine.md) -/

/-- R82: `INIT`, legal in both phases; `DIGEST`, `PW`, `DV`, `PV`, `BUF` and `ERR` keep their values; twice is once. -/
def Obligations.InitEmptiesTheHashState : Prop :=
  FormatZWord 0x01 .init ∧
  (∀ s : State, s.err = false → exec .init s =
    .next { s with h := iv, len := 0, bufLen := 0, fin := false, resp := some 0 }) ∧
  (∀ s t : State, s.err = false → exec .init s = .next t → exec .init t = .next t) ∧
  exec .init State.reset = .next { State.reset with resp := some 0 }

/-- R83: `ABSORB` completes in the absorbing phase below `MAXLEN` and appends its byte, whatever the byte; it faults
with `E_PHASE`, then with `E_LENGTH`. -/
def Obligations.AbsorbAppendsItsByte : Prop :=
  ∀ (b : Byte) (s : State), s.err = false →
    (s.fin = false → s.len ≠ s.config.maxLen → ∃ t, exec (.absorb b) s = .next t ∧ Appended b s t) ∧
    (s.fin = true → exec (.absorb b) s = .next (faulted 2 s)) ∧
    (s.fin = false → s.len = s.config.maxLen → exec (.absorb b) s = .next (faulted 6 s))

/-- R84: the effect of `SEP` is exactly that of `ABSORB 0x7C`: same writes, same faults, same response. -/
def Obligations.SepAppendsTheSeparator : Prop :=
  FormatZWord 0x03 .sep ∧
  (∀ s : State, exec .sep s = exec (.absorb 0x7C) s) ∧
  (∀ s : State, s.err = false → s.fin = false → s.len ≠ s.config.maxLen →
    ∃ t, exec .sep s = .next t ∧ Appended 0x7C s t) ∧
  (∀ s : State, s.err = false → s.fin = true → exec .sep s = .next (faulted 2 s)) ∧
  (∀ s : State, s.err = false → s.fin = false → s.len = s.config.maxLen → exec .sep s = .next (faulted 6 s))

/-- R85, R38: the padded tail for every buffer and length: 64 or 128 bytes, the buffered bytes, 0x80, zeros, and the
bit length `8 * LEN` in the last eight bytes; with the example "abc". -/
def Obligations.PadBuildsTheFinalBlocks : Prop :=
  (∀ s : State,
    (pad s).length = (if s.bufLen.toNat ≤ 55 then 64 else 128) ∧
    (∀ j : Fin 64, j.val < s.bufLen.toNat → (pad s)[j.val]? = some s.buf[j]) ∧
    (pad s)[s.bufLen.toNat]? = some 0x80 ∧
    (∀ j, s.bufLen.toNat < j → j + 8 < (pad s).length → (pad s)[j]? = some 0x00) ∧
    bigEndian ((pad s).drop ((pad s).length - 8)) = 8 * s.len.toNat) ∧
  (∀ s : State, s.bufLen = 3 → s.len = 3 → memRead s.buf 0 3 = [0x61, 0x62, 0x63] → pad s = abcBlock)

/-- R87, R88: `FINAL` compresses the padded tail, one block or two, latches the digest and sets the flags; it leaves
`BUF`, `BUFLEN` and `LEN`; it faults with `E_PHASE` when already finalized. -/
def Obligations.FinalLatchesTheDigest : Prop :=
  FormatZWord 0x04 .final ∧
  (∀ s : State, s.err = false → s.fin = false → ∃ t, exec .final s = .next t ∧ Finalized s t) ∧
  (∀ s : State, s.err = false → s.fin = true → exec .final s = .next (faulted 2 s))

/-- R37, R88: after every command that writes `DIGEST`, `DIGEST[4i+j] = H[i][31-8j : 24-8j]`. -/
def Obligations.DigestIsHBigEndian : Prop :=
  (∀ (i : Instr) (s t : State), i.writesDigest = true → exec i s = .next t → t.err = false →
    ∀ (k : Fin 8) (j : Fin 4), t.digest.toList[4 * k.val + j.val]? = some (t.h[k].extractLsb' (24 - 8 * j.val) 8)) ∧
  (∀ h : Vector Word 8, h[0] = 0xBA7816BF → (serialize h).take 4 = [0xBA, 0x78, 0x16, 0xBF])

/-- R80, R28 (g): after `INIT` the hash state is that of the empty message. -/
def Obligations.InitStartsTheEmptyMessage : Prop :=
  ∀ s : State, s.err = false → ∃ t, exec .init s = .next t ∧ Absorbs t []

/-- R81, R36, R28 (g): `ABSORB` extends the message by its byte, and `SEP` by 0x7C. -/
def Obligations.AppendExtendsTheMessage : Prop :=
  ∀ (s : State) (m : List Byte), s.err = false → Absorbs s m → m.length < s.config.maxLen.toNat →
    (∀ b : Byte, ∃ t, exec (.absorb b) s = .next t ∧ Absorbs t (m ++ [b])) ∧
    (∃ t, exec .sep s = .next t ∧ Absorbs t (m ++ [0x7C]))

/-- R36, R81, R89: a `process` of n bytes is n `ABSORB` commands in order. -/
def Obligations.ProcessIsAbsorbPerByte : Prop :=
  ∀ (m : List Byte) (s : State), s.err = false → s.fin = false →
    s.len.toNat + m.length ≤ s.config.maxLen.toNat →
    runAll (expandMsg m) s =
      .next { processBytes m s with resp := if m = [] then s.resp else some 0 }

/-- R90: `Hash(m)` is the digest left by `INIT`, one `ABSORB` per byte of `m`, `FINAL`, from every unfaulted state,
whatever the block did before. -/
def Obligations.HashIsInitAbsorbFinal : Prop :=
  ∀ (s : State) (m : List Byte), s.err = false → m.length ≤ s.config.maxLen.toNat →
    ∃ t, runAll (expandLine (.hash m)) s = .next t ∧ t.digest.toList = hashMessage m ∧
      t.err = false ∧ t.fin = true ∧ t.dv = true ∧ t.pv = false

/-- R90, R91: the padded message is cut into `floor((L + 8) / 64) + 1` blocks of 64 bytes, in order, none left out or
repeated. It speaks of the cutting alone, not of what is compressed; it covers messages longer than `MAXLEN` too, whose
length field is the model's (notes/assumptions/14.md). -/
def Obligations.PaddedMessageIsCutIntoBlocks : Prop :=
  ∀ m : List Byte, (messageBlocks m).length = (m.length + 8) / 64 + 1 ∧
    (∀ b ∈ messageBlocks m, b.length = 64) ∧ (messageBlocks m).flatten = paddedMessage m

/-! ### The iterated derivation (42_iterated_derivation.md) -/

/-- R95: `REHASH` hashes the 32 raw digest bytes in one block; `LEN`, `BUFLEN` and `BUF[0..31]` are left as R95 says;
it faults with `E_PHASE` in the absorbing phase. -/
def Obligations.RehashHashesTheDigest : Prop :=
  FormatZWord 0x05 .rehash ∧
  (∀ s : State, s.err = false → s.fin = true →
    ∃ t, exec .rehash s = .next t ∧ Rehashed s t ∧ t.digest.toList = hashMessage s.digest.toList) ∧
  (∀ s : State, s.err = false → s.fin = false → exec .rehash s = .next (faulted 2 s))

/-- R95: `REHASH` is exactly the sequence `INIT`, `ABSORB d[0]`, .., `ABSORB d[31]`, `FINAL` with `d` the old digest. -/
def Obligations.RehashIsInitAbsorbFinal : Prop :=
  ∀ s : State, s.err = false → s.fin = true → s.config.Legal →
    exec .rehash s = runAll (expandLine (.hash s.digest.toList)) s

/-- R96: `ITER` has the effect of 1000 consecutive `REHASH` commands, and checks the phase once. -/
def Obligations.IterIsAThousandRehashes : Prop :=
  FormatZWord 0x06 .iter ∧
  (∀ s : State, s.err = false → s.fin = true →
    exec .iter s = runAll (List.replicate 1000 .rehash) s ∧
    ∃ t, exec .iter s = .next t ∧ t.digest.toList = hashTimes 1000 s.digest.toList ∧ t.err = false ∧
      t.fin = true ∧ t.dv = true ∧ t.pv = false ∧ t.resp = some 0) ∧
  (∀ s : State, s.err = false → s.fin = false → exec .iter s = .next (faulted 2 s))

/-- R97: `DERIVE` has the effect of `FINAL` then `ITER`; no separator and no message byte is required. In a state with
`LEN` above `MAXLEN`, which no run reaches, the value of `Hash` is the model's (notes/assumptions/14.md). -/
def Obligations.DeriveIsFinalThenIter : Prop :=
  FormatZWord 0x07 .derive ∧
  (∀ s : State, s.err = false → s.fin = false →
    exec .derive s = runAll [.final, .iter] s ∧
    ∃ t, exec .derive s = .next t ∧ t.err = false ∧ t.fin = true ∧ t.dv = true ∧ t.pv = false ∧ t.resp = some 0 ∧
      ∀ m, Absorbs s m → t.digest.toList = hashTimes 1000 (hashMessage m)) ∧
  (∀ s : State, s.err = false → s.fin = true → exec .derive s = .next (faulted 2 s))

/-- R94, R98: `derive(id, sec)` makes exactly 1 + 1000 invocations of `Hash`, the first on the Derivation Input. It covers messages
longer than `MAXLEN` too, where the value of `Hash` is the model's (notes/assumptions/14.md). -/
def Obligations.DeriveMakes1001Invocations : Prop :=
  ∀ ident sec : List Byte,
    deriveDigest ident sec = (hashMessage^[1001]) (ident ++ [0x7C] ++ sec)

/-- R94, R97, R63: the lines of `DERIVEPW` leave `DIGEST = derive(id, sec)`. -/
def Obligations.DerivepwLeavesTheDerivedDigest : Prop :=
  ∀ (s : State) (ident sec : List Byte), s.err = false → s.ecode = 0 →
    ident.length + 1 + sec.length ≤ s.config.maxLen.toNat →
    ∃ t, runAll (expandLine (.derivepw ident sec)) s = .next t ∧ t.digest.toList = deriveDigest ident sec ∧
      statusWord t = 0x03

/-- R100: the separator is not escaped: two pairs with the same Derivation Input give the same digest and the same
password, and `("x|y", sec)` and `("x", "y|" ++ sec)` are two such pairs. It covers messages
longer than `MAXLEN` too, where the value of `Hash` is the model's (notes/assumptions/14.md). -/
def Obligations.SeparatorIsNotEscaped : Prop :=
  (∀ ident sec ident' sec' : List Byte, ident ++ [0x7C] ++ sec = ident' ++ [0x7C] ++ sec' →
    deriveDigest ident sec = deriveDigest ident' sec' ∧
    generatePassword ident sec = generatePassword ident' sec') ∧
  (∀ x y sec : List Byte,
    deriveDigest (x ++ [0x7C] ++ y) sec = deriveDigest x (y ++ [0x7C] ++ sec) ∧
    generatePassword (x ++ [0x7C] ++ y) sec = generatePassword x (y ++ [0x7C] ++ sec))

/-! ### The output encoder and the entry point (43_output_encoder.md) -/

/-- R103: the alphabet in closed form; its 64 entries are pairwise distinct. -/
def Obligations.AlphabetTable : Prop :=
  alphabet.length = 64 ∧ alphabet.Nodup ∧
  (∀ v ≤ 25, alphabet[v]? = some (BitVec.ofNat 8 (0x61 + v))) ∧
  (∀ v, 26 ≤ v → v ≤ 51 → alphabet[v]? = some (BitVec.ofNat 8 (0x41 + (v - 26)))) ∧
  (∀ v, 52 ≤ v → v ≤ 60 → alphabet[v]? = some (BitVec.ofNat 8 (0x31 + (v - 52)))) ∧
  alphabet[61]? = some 0x30 ∧ alphabet[62]? = some 0x2D ∧ alphabet[63]? = some 0x3D

/-- R102, R108: the encoding has one symbol per byte and keeps exactly the low six bits of each: two digests encode
alike if and only if their bytes agree modulo 64. It covers lists of other than 32 bytes too, where the value is the
model's (notes/assumptions/17.md). -/
def Obligations.EncodingKeepsTheLowSixBits : Prop :=
  (∀ d : List Byte, (encodeDigest d).length = d.length ∧
    ∀ (i : Nat) (b : Byte), d[i]? = some b → (encodeDigest d)[i]? = alphabet[b.toNat % 64]?) ∧
  (∀ d d' : List Byte, encodeDigest d = encodeDigest d' ↔
    d.map (fun b => b.toNat % 64) = d'.map (fun b => b.toNat % 64))

/-- R104: `ENCODE` writes `PW[i] = A[DIGEST[i] AND 0x3F]` and `PV`, in both phases; without a digest it faults with
`E_NODIGEST`. -/
def Obligations.EncodeWritesThePassword : Prop :=
  FormatZWord 0x08 .encode ∧
  (∀ s : State, s.err = false → s.dv = true → ∃ t, exec .encode s = .next t ∧ Encoded s t) ∧
  (∀ s : State, s.err = false → s.dv = false → exec .encode s = .next (faulted 3 s))

/-- R105: `GEN` has the effect of `DERIVE` then `ENCODE`, or of `FINAL`, `ITER`, `ENCODE`. -/
def Obligations.GenIsDeriveThenEncode : Prop :=
  FormatZWord 0x09 .gen ∧
  (∀ s : State, s.err = false → s.fin = false →
    exec .gen s = runAll [.derive, .encode] s ∧ exec .gen s = runAll [.final, .iter, .encode] s ∧
    ∃ t, exec .gen s = .next t ∧ t.err = false ∧ t.fin = true ∧ t.dv = true ∧ t.pv = true ∧ t.resp = some 0 ∧
      t.pw.toList = encodeDigest t.digest.toList) ∧
  (∀ s : State, s.err = false → s.fin = true → exec .gen s = .next (faulted 2 s))

/-- R107: command level and function level agree: from every unfaulted state that meets the invariants of R28, the
lines of `GENPW` raise no fault and leave the password, the digest and `STATUS = 0x07`, and the 32 responses of
`RDPASS` that follow are the password's bytes. -/
def Obligations.CommandLevelMeetsFunctionLevel : Prop :=
  ∀ (s : State) (ident sec : List Byte), Inv s → s.err = false →
    ident.length + 1 + sec.length ≤ s.config.maxLen.toNat →
    ∃ t, runAll (expandLine (.genpw ident sec)) s = .next t ∧ t.err = false ∧
      t.pw.toList = generatePassword ident sec ∧ t.digest.toList = deriveDigest ident sec ∧ statusWord t = 0x07 ∧
      ∀ k : Fin 32, ∃ u, runAll ((expandLine .rdpass).take (k.val + 1)) t = .next u ∧
        u.resp = some (0#4 ++ t.pw[k])

/-- R110, R106, R24: a password has exactly 32 characters, each of the alphabet, and so has `PW` after every command
that writes it. It holds whatever value `Hash` has on inputs longer than `MAXLEN`
(notes/assumptions/14.md). -/
def Obligations.PasswordsAreThirtyTwoSymbols : Prop :=
  (∀ ident sec : List Byte, (generatePassword ident sec).length = 32 ∧
    ∀ c ∈ generatePassword ident sec, c ∈ alphabet) ∧
  (∀ (i : Instr) (s t : State), i.writesPw = true → exec i s = .next t → t.err = false →
    ∀ k : Fin 32, t.pw[k] ∈ alphabet)

/-! ### Read-out and system commands (44_readout_and_system.md) -/

/-- R111: `NOP` writes nothing and responds `(0, 0x00)`; the words 0x0001 to 0x00FF are illegal; in the faulted state
it is refused. -/
def Obligations.NopChangesNothing : Prop :=
  FormatZWord 0x00 .nop ∧
  (∀ s : State, s.err = false → exec .nop s = .next { s with resp := some 0 }) ∧
  (∀ s : State, s.err = true → exec .nop s = .next (refused s))

/-- R112: `RDDIG i` responds with `DIGEST[i]` and writes nothing; validity before index. -/
def Obligations.RddigReadsTheDigest : Prop :=
  (∀ (s : State) (i : Fin 32), s.err = false → s.dv = true →
    exec (.rddig i.val) s = .next { s with resp := some (0#4 ++ s.digest[i]) }) ∧
  (∀ (s : State) (i : Nat), s.err = false → s.dv = false → exec (.rddig i) s = .next (faulted 3 s)) ∧
  (∀ (s : State) (i : Nat), s.err = false → s.dv = true → 32 ≤ i → exec (.rddig i) s = .next (faulted 5 s))

/-- R113: `RDPW i` responds with `PW[i]` and writes nothing; validity before index; in a state that meets the
invariants of R28 the byte is one of the 64 codes. -/
def Obligations.RdpwReadsThePassword : Prop :=
  (∀ (s : State) (i : Fin 32), s.err = false → s.pv = true →
    exec (.rdpw i.val) s = .next { s with resp := some (0#4 ++ s.pw[i]) }) ∧
  (∀ (s : State) (i : Nat), s.err = false → s.pv = false → exec (.rdpw i) s = .next (faulted 4 s)) ∧
  (∀ (s : State) (i : Nat), s.err = false → s.pv = true → 32 ≤ i → exec (.rdpw i) s = .next (faulted 5 s)) ∧
  (∀ (s : State) (i : Fin 32), Inv s → s.pv = true → s.pw[i] ∈ alphabet)

/-- R114, R26: `RDST` responds `(0, STATUS)` in every state, the faulted one too, and writes nothing. -/
def Obligations.RdstReadsTheStatus : Prop :=
  FormatZWord 0x0C .rdst ∧
  (∀ s : State, exec .rdst s = .next { s with resp := some (0#4 ++ statusWord s) }) ∧
  (∀ s : State, (statusWord s).toNat =
    s.ecode.toNat * 16 + s.err.toNat * 8 + s.pv.toNat * 4 + s.dv.toNat * 2 + s.fin.toNat)

/-- R115: the reads and `NOP`, when they do not fault, change no state, and repeated they respond alike; a read that
faults sets `ERR` and `ECODE`. -/
def Obligations.ReadsHaveNoSideEffect : Prop :=
  ∀ (i : Instr) (s t : State), i.readsOnly = true → s.err = false → exec i s = .next t →
    (t.err = false → t = { s with resp := t.resp } ∧ exec i t = .next t) ∧
    (t.err = true → t = faulted t.ecode s ∧ t.ecode ≠ 0)

/-! ### Faults (60_exceptions.md) and the whole machine -/

/-- R119, R118, R125: every command makes the checks in the order of R119 and the first that applies ends it; with
none it is performed with `e = 0` and raises no fault. In the faulted state only `RDST` completes. -/
def Obligations.ChecksFollowTheirOrder : Prop :=
  (∀ (i : Instr) (s : State), s.err = true → i ≠ .rdst → exec i s = .next (refused s)) ∧
  (∀ s : State, exec .rdst s = .next { s with resp := some (0#4 ++ statusWord s) }) ∧
  (∀ (w : CmdWord) (s : State), IllegalWord w →
    runWord w s = .next (if s.err = true then refused s else faulted 1 s)) ∧
  (∀ (i : Instr) (s : State) (c : BitVec 4), s.err = false → firstFault i s = some c →
    exec i s = .next (faulted c s)) ∧
  (∀ (i : Instr) (s : State), s.err = false → firstFault i s = none →
    ∃ (t : State) (d : Byte), exec i s = .next t ∧ t.err = false ∧ t.ecode = s.ecode ∧ t.resp = some (0#4 ++ d))

/-- R120, R118: a command word that faults sets `ERR`, `ECODE` and the response `(code, 0x00)` and makes no other
write; its code is 1 to 6. -/
def Obligations.FaultEntryWritesNothingElse : Prop :=
  ∀ (w : CmdWord) (s t : State), s.err = false → runWord w s = .next t → t.err = true →
    t = faulted t.ecode s ∧ 1 ≤ t.ecode.toNat ∧ t.ecode.toNat ≤ 6

/-- R121: in the faulted state every word but 0x0C00 responds `(ECODE, 0x00)` and changes no state; 0x0C00 responds
`(0, STATUS)`. -/
def Obligations.FaultedStateRefusesEveryWord : Prop :=
  ∀ (w : CmdWord) (s : State), s.err = true →
    runWord w s =
      .next (if w = 0x0C00 then { s with resp := some (0#4 ++ statusWord s) } else refused s)

/-- R27, R121, R122: `ERR` and `ECODE` stay through every step but `rst`. -/
def Obligations.OnlyRstClearsAFault : Prop :=
  ∀ s t : State, s.err = true → s.port.head? ≠ some .reset → step s = .next t →
    t.err = true ∧ t.ecode = s.ecode

/-- R56, R117, R144: no word, no command and no state stops the machine: every step answers a next state. -/
def Obligations.EveryStepAnswers : Prop := ∀ s : State, ∃ t, step s = .next t

/-- R129: the source's operation never faults: `INIT`, any number of appends up to `MAXLEN`, one finalization, then
any read-out sequence, from every unfaulted state. -/
def Obligations.SourceOperationNeverFaults : Prop :=
  ∀ (s : State) (appends readOut : List Instr) (f : Instr), s.err = false →
    (∀ i ∈ appends, i.appends = true) → appends.length ≤ s.config.maxLen.toNat →
    f.finalizes = true → ReadOutSequence (f == .gen) readOut →
    ∃ t, runAll ([.init] ++ appends ++ [f] ++ readOut) s = .next t ∧ t.err = false

/-- R30: the frame of every command. What a command may write is what the table of R30 lists; every byte of the three
spaces, every register, flag and the port is otherwise unchanged, and `ERR` and `ECODE` change only by fault entry. -/
def Obligations.WriteSets : Prop :=
  ∀ (i : Instr) (s t : State), exec i s = .next t →
    (i.writesH = false → t.h = s.h) ∧
    (i.writesLen = false → t.len = s.len ∧ t.bufLen = s.bufLen) ∧
    (∀ j : Fin 64, t.buf[j] ≠ s.buf[j] →
      (i.appends = true ∧ j.val = s.bufLen.toNat) ∨ (i.writesBufHead = true ∧ j.val < 32)) ∧
    (i.writesDigest = false → t.digest = s.digest ∧ t.dv = s.dv) ∧
    (i.writesPw = false → t.pw = s.pw) ∧
    (i.writesDigest = false → i.writesPw = false → t.pv = s.pv) ∧
    (i ≠ .init → i.writesDigest = false → t.fin = s.fin) ∧
    t.config = s.config ∧ t.port = s.port ∧
    ((t.err = s.err ∧ t.ecode = s.ecode) ∨ (s.err = false ∧ t = faulted t.ecode s))

/-- R28, (a) to (g): every step keeps the invariants. -/
def Obligations.EveryStepKeepsTheInvariants : Prop := ∀ s t : State, Inv s → step s = .next t → Inv t

/-- R28: the invariants hold at reset. -/
def Obligations.ResetMeetsTheInvariants : Prop := Inv State.reset

/-- R32, R146: the cells that hold no value are never read: two states that differ only in them take the same step,
with the same response, and differ only in such cells afterwards. It rests on R28 (c). -/
def Obligations.ValuelessCellsAreNeverRead : Prop :=
  ∀ s t s' : State, (s.fin = true → s.dv = true) → SameValues s t → step s = .next s' →
    ∃ t', step t = .next t' ∧ SameValues s' t'
end

