-- ==== Sys2Proof/Laws/Operands.lean ====
section
/-! SUPPORT. The laws of the byte-sequence operand forms and of the access primitives: lengths, what a read reads and
what a write leaves (R9, R10). -/

namespace Sys2Proof.Machine

@[simp] theorem length_be32 (w : Word) : (be32 w).length = 4 := rfl

@[simp] theorem length_be64 (v : BitVec 64) : (be64 v).length = 8 := rfl

@[simp] theorem length_zeros (n : Nat) : (zeros n).length = n := by simp [zeros]

/-- A block of `4 n` bytes has `n` words. -/
theorem length_blockWords (n : Nat) : ∀ blk : List Byte, blk.length = 4 * n → (blockWords blk).length = n := by
  induction n with
  | zero => intro blk h; simp_all [blockWords]
  | succ n ih =>
    intro blk h
    match blk, h with
    | b0 :: b1 :: b2 :: b3 :: rest, h =>
      simp only [blockWords, List.length_cons] at h ⊢
      rw [ih rest (by omega)]

/-- Word `t` of a block is made of its bytes `4t .. 4t+3` (R39). -/
theorem getElem?_blockWords (t : Nat) : ∀ blk : List Byte, (h : 4 * t + 3 < blk.length) →
    (blockWords blk)[t]? =
      some (fromBE32 blk[4 * t] blk[4 * t + 1] blk[4 * t + 2] blk[4 * t + 3]) := by
  induction t with
  | zero =>
    intro blk h
    match blk, h with
    | b0 :: b1 :: b2 :: b3 :: rest, h => rfl
  | succ t ih =>
    intro blk h
    match blk, h with
    | b0 :: b1 :: b2 :: b3 :: rest, h =>
      have h' : 4 * t + 3 < rest.length := by simp only [List.length_cons] at h; omega
      simp only [blockWords, List.getElem?_cons_succ, ih rest h']
      rfl

/-! ### The access primitives -/

section Access

variable {size : Nat} (space : Vector Byte size)

@[simp] theorem length_memRead (a n : Nat) : (memRead space a n).length = min n (size - a) := by
  simp [memRead]

/-- A read of the whole space gives its bytes. -/
@[simp] theorem memRead_all : memRead space 0 size = space.toList := by simp [memRead]

/-- Byte `j` of a read (R10). -/
theorem getElem?_memRead (a n j : Nat) (hj : j < n) : (memRead space a n)[j]? = space.toList[a + j]? := by
  simp [memRead, hj]

/-- What an index of the space holds after a write: the byte written there, or its old byte (R10). -/
theorem getElem_memWrite (bytes : List Byte) : ∀ (space : Vector Byte size) (a j : Nat) (hj : j < size),
    (memWrite space a bytes)[j] = if h : a ≤ j ∧ j < a + bytes.length then bytes[j - a]'(by omega) else space[j] := by
  induction bytes with
  | nil => intro space a j hj; simp [memWrite]
  | cons b bs ih =>
    intro space a j hj
    rw [memWrite, ih _ (a + 1) j hj]
    rcases Nat.lt_trichotomy j a with h | h | h
    · rw [dif_neg (by omega), dif_neg (by omega), Vector.getElem_setIfInBounds, if_neg (by omega)]
    · subst h; simp
    · by_cases hb : j < a + 1 + bs.length
      · rw [dif_pos ⟨by omega, hb⟩, dif_pos ⟨by omega, by simp only [List.length_cons]; omega⟩,
          List.getElem_cons, dif_neg (by omega)]
        congr 1
      · rw [dif_neg (by omega), dif_neg (by simp only [List.length_cons]; omega),
          Vector.getElem_setIfInBounds, if_neg (by omega)]

/-- A write of exactly the whole space leaves the bytes written, whatever was there before. -/
theorem toList_memWrite_all (bytes : List Byte) (h : bytes.length = size) :
    (memWrite space 0 bytes).toList = bytes := by
  apply List.ext_getElem
  · simp [h]
  · intro j h1 h2
    simp only [Vector.getElem_toList, getElem_memWrite]
    rw [dif_pos ⟨by omega, by omega⟩]
    rfl

/-- A write at index 0 leaves the written bytes as the first ones of the space. -/
theorem memRead_memWrite_head (bytes : List Byte) (h : bytes.length ≤ size) :
    memRead (memWrite space 0 bytes) 0 bytes.length = bytes := by
  apply List.ext_getElem
  · simp [h]
  · intro j h1 h2
    simp only [memRead, List.drop_zero, List.getElem_take, Vector.getElem_toList, getElem_memWrite]
    rw [dif_pos ⟨by omega, by omega⟩]
    rfl

/-- One byte written at `n` extends the first `n` bytes of the space by it. -/
theorem memRead_memWrite_snoc (n : Nat) (hn : n < size) (b : Byte) :
    memRead (memWrite space n [b]) 0 (n + 1) = memRead space 0 n ++ [b] := by
  apply List.ext_getElem
  · simp; omega
  · intro j h1 h2
    have hj : j < n + 1 := by simp at h1; omega
    simp only [memRead, List.drop_zero, List.getElem_take, Vector.getElem_toList, getElem_memWrite]
    rcases Nat.lt_or_ge j n with h | h
    · rw [dif_neg (by simp; omega), List.getElem_append_left (by simp; omega)]
      simp
    · have : j = n := by omega
      subst this
      rw [dif_pos ⟨by omega, by simp⟩, List.getElem_append_right (by simp)]
      simp

end Access

/-- `MemRead(S, i, 1)[0]` is the byte at index `i` (R112, R113). -/
theorem byteAt_eq (space : Vector Byte 32) (i : Nat) (h : i < 32) : byteAt space i = space[i] := by
  have : (memRead space i 1)[0]? = some space[i] := by
    rw [getElem?_memRead _ _ _ _ (by omega)]
    simp [h]
  simp [byteAt, List.head?_eq_getElem?, List.headD_eq_head?_getD, this]

end Sys2Proof.Machine
end

