-- ==== Sys2Proof/Laws/Compression.lean ====
section
/-! SUPPORT. The laws of the message schedule and of the rounds (R75 to R77): lengths, and how each is extended by one
step. -/

namespace Sys2Proof.Machine

@[simp] theorem length_roundConstants : roundConstants.length = 64 := rfl

/-- The words already there stay where they are when the schedule grows (R75). -/
theorem getElem?_extendSchedule_lt (n : Nat) : ∀ (w : List Word) (t : Nat), t < w.length →
    (extendSchedule n w)[t]? = w[t]? := by
  induction n with
  | zero => intro w t _; rfl
  | succ n ih =>
    intro w t h
    rw [extendSchedule, ih _ _ (by simp; omega), List.getElem?_append_left h]

@[simp] theorem length_extendSchedule (n : Nat) : ∀ w : List Word, (extendSchedule n w).length = w.length + n := by
  induction n with
  | zero => intro w; rfl
  | succ n ih => intro w; rw [extendSchedule, ih]; simp; omega

/-- Growing in two parts is growing at once. -/
theorem extendSchedule_add (m n : Nat) : ∀ w : List Word,
    extendSchedule (m + n) w = extendSchedule n (extendSchedule m w) := by
  induction m with
  | zero => intro w; simp [extendSchedule]
  | succ m ih => intro w; rw [Nat.succ_add, extendSchedule, ih]; rfl

/-- The words of the schedule below `t` are a schedule grown to `t` words, and word `t` is the next one (R75). -/
theorem getElem?_extendSchedule_ge (n : Nat) (w : List Word) (t : Nat) (h : t < n) :
    (extendSchedule n w)[w.length + t]? = some (scheduleWord (extendSchedule t w)) := by
  obtain ⟨k, rfl⟩ : ∃ k, n = t + (1 + k) := ⟨n - t - 1, by omega⟩
  rw [extendSchedule_add, extendSchedule_add, getElem?_extendSchedule_lt _ _ _ (by simp)]
  simp [extendSchedule]

/-- The schedule of a 64-byte block has 64 words. -/
theorem length_schedule {blk : List Byte} (h : blk.length = 64) : (schedule blk).length = 64 := by
  simp [schedule, length_blockWords 16 blk (by omega)]

/-- The rounds over one more pair. -/
theorem rounds_append (kw : List (Word × Word)) (k w : Word) (v : Working) :
    rounds (kw ++ [(k, w)]) v = round k w (rounds kw v) := by
  simp [rounds]

end Sys2Proof.Machine
end

