-- ==== Sys2Proof/Laws/Decode.lean ====
section
/-! SUPPORT. The two fields of a command word (R50), and what the decoder reads from them. -/

namespace Sys2Proof

/-- A command word is its two fields (R50). -/
theorem opField_append_immField (w : CmdWord) : opField w ++ immField w = w := by
  apply BitVec.eq_of_getElem_eq
  intro k hk
  rw [BitVec.getElem_append]
  split
  · simp [immField]; rfl
  · rename_i h
    have h8 : 8 + (k - 8) = k := by omega
    simp only [opField, BitVec.getElem_extractLsb', h8]
    rfl

@[simp] theorem opField_append (op imm : Byte) : opField (op ++ imm) = op := by
  apply BitVec.eq_of_getElem_eq
  intro k hk
  simp only [opField, BitVec.getElem_extractLsb', BitVec.getLsbD_append]
  rw [if_neg (by omega), Nat.add_sub_cancel_left]
  rfl

@[simp] theorem immField_append (op imm : Byte) : immField (op ++ imm) = imm := by
  apply BitVec.eq_of_getElem_eq
  intro k hk
  simp only [immField, BitVec.getElem_extractLsb', BitVec.getLsbD_append]
  rw [if_pos (by omega), Nat.zero_add]
  rfl

/-- The field `op` is the word divided by 256, and `imm` the remainder. -/
theorem toNat_opField (w : CmdWord) : (opField w).toNat = w.toNat / 256 := by
  have := w.isLt
  simp only [opField, BitVec.extractLsb'_toNat, Nat.shiftRight_eq_div_pow]
  omega

theorem toNat_immField (w : CmdWord) : (immField w).toNat = w.toNat % 256 := by
  simp only [immField, BitVec.extractLsb'_toNat, Nat.shiftRight_zero]

/-- The format Z opcodes (R51). -/
def formatZOps : List Byte := [0x00#8, 0x01#8, 0x03#8, 0x04#8, 0x05#8, 0x06#8, 0x07#8, 0x08#8, 0x09#8, 0x0C#8]

/-- An opcode has a format Z command exactly when it is in the list (R51). -/
theorem formatZ_isSome (op : Byte) : (formatZ op).isSome = decide (op ∈ formatZOps) := by
  revert op; decide +kernel

/-- The word of a format Z command is its opcode with `imm = 0x00` (R50, R53). -/
theorem encode_formatZ (op : Byte) (i : Instr) (h : formatZ op = some i) : encode i = op ++ 0x00#8 := by
  have key : ∀ op : Byte, ∀ i ∈ formatZ op, encode i = op ++ 0x00#8 := by decide +kernel
  exact key op i h

/-- Every format Z command is well formed. -/
theorem wellFormed_formatZ (op : Byte) (i : Instr) (h : formatZ op = some i) : i.wellFormed = true := by
  have key : ∀ op : Byte, ∀ i ∈ formatZ op, i.wellFormed = true := by decide +kernel
  exact key op i h

/-- The words of the commands with an operand (R50, R53). -/
theorem encode_absorb (b : Byte) : encode (.absorb b) = 0x02#8 ++ b := by revert b; decide +kernel

theorem encode_rddig (b : Byte) : encode (.rddig b.toNat) = 0x0A#8 ++ b := by revert b; decide +kernel

theorem encode_rdpw (b : Byte) : encode (.rdpw b.toNat) = 0x0B#8 ++ b := by revert b; decide +kernel

/-- What the decoder reads from the two fields: the four cases of R66. -/
theorem decode_cases (w : CmdWord) :
    (opField w = 0x02#8 ∧ decode w = .ok (.absorb (immField w))) ∨
    (opField w = 0x0A#8 ∧ decode w = .ok (.rddig (immField w).toNat)) ∨
    (opField w = 0x0B#8 ∧ decode w = .ok (.rdpw (immField w).toNat)) ∨
    (∃ i, formatZ (opField w) = some i ∧ immField w = 0x00#8 ∧ decode w = .ok i) ∨
    (opField w ∈ formatZOps ∧ immField w ≠ 0x00#8 ∧ ∃ e, decode w = .error e) ∨
    (opField w ∉ formatZOps ∧ opField w ≠ 0x02#8 ∧ opField w ≠ 0x0A#8 ∧ opField w ≠ 0x0B#8 ∧
      ∃ e, decode w = .error e) := by
  by_cases h2 : opField w = 0x02#8
  · exact .inl ⟨h2, by simp [decode, h2]⟩
  by_cases hA : opField w = 0x0A#8
  · exact .inr (.inl ⟨hA, by simp [decode, hA]⟩)
  by_cases hB : opField w = 0x0B#8
  · exact .inr (.inr (.inl ⟨hB, by simp [decode, hB]⟩))
  have hz := formatZ_isSome (opField w)
  rcases hf : formatZ (opField w) with _ | i
  · rw [hf] at hz
    refine .inr (.inr (.inr (.inr (.inr ⟨by simpa using hz.symm, h2, hA, hB, ?_⟩))))
    exact ⟨.reservedOpcode (opField w), by simp [decode, h2, hA, hB, hf]⟩
  · rw [hf] at hz
    by_cases hi : immField w = 0x00#8
    · exact .inr (.inr (.inr (.inl ⟨i, rfl, hi, by simp [decode, h2, hA, hB, hf, hi]⟩)))
    · refine .inr (.inr (.inr (.inr (.inl ⟨by simpa using hz.symm, hi, ?_⟩))))
      exact ⟨.operandNotZero (opField w) (immField w), by simp [decode, h2, hA, hB, hf, hi]⟩

end Sys2Proof
end

