-- ==== Sys2Proof/Laws/State.lean ====
section
/-! SUPPORT. One lemma per field per named update of State, each true by rfl and a simp lemma, so that no proof
unfolds a record update. The proofs stand in brackets so that simp rewrites with them and does not leave them to the
kernel to unfold: beside the 1000 iterations of `ITER` an unfolding does not end. -/

namespace Sys2Proof.Machine

/-! ### respond -/

@[simp] theorem respond_h (e : BitVec 4) (d : Byte) (s : State) : (respond e d s).h = s.h := (rfl)
@[simp] theorem respond_len (e : BitVec 4) (d : Byte) (s : State) : (respond e d s).len = s.len := (rfl)
@[simp] theorem respond_buf (e : BitVec 4) (d : Byte) (s : State) : (respond e d s).buf = s.buf := (rfl)
@[simp] theorem respond_bufLen (e : BitVec 4) (d : Byte) (s : State) : (respond e d s).bufLen = s.bufLen := (rfl)
@[simp] theorem respond_digest (e : BitVec 4) (d : Byte) (s : State) : (respond e d s).digest = s.digest := (rfl)
@[simp] theorem respond_pw (e : BitVec 4) (d : Byte) (s : State) : (respond e d s).pw = s.pw := (rfl)
@[simp] theorem respond_fin (e : BitVec 4) (d : Byte) (s : State) : (respond e d s).fin = s.fin := (rfl)
@[simp] theorem respond_dv (e : BitVec 4) (d : Byte) (s : State) : (respond e d s).dv = s.dv := (rfl)
@[simp] theorem respond_pv (e : BitVec 4) (d : Byte) (s : State) : (respond e d s).pv = s.pv := (rfl)
@[simp] theorem respond_err (e : BitVec 4) (d : Byte) (s : State) : (respond e d s).err = s.err := (rfl)
@[simp] theorem respond_ecode (e : BitVec 4) (d : Byte) (s : State) : (respond e d s).ecode = s.ecode := (rfl)
@[simp] theorem respond_config (e : BitVec 4) (d : Byte) (s : State) : (respond e d s).config = s.config := (rfl)
@[simp] theorem respond_port (e : BitVec 4) (d : Byte) (s : State) : (respond e d s).port = s.port := (rfl)
@[simp] theorem respond_resp (e : BitVec 4) (d : Byte) (s : State) : (respond e d s).resp = some (e ++ d) := (rfl)

/-! ### refuseCommand -/

@[simp] theorem refuseCommand_h (s : State) : (refuseCommand s).h = s.h := (rfl)
@[simp] theorem refuseCommand_len (s : State) : (refuseCommand s).len = s.len := (rfl)
@[simp] theorem refuseCommand_buf (s : State) : (refuseCommand s).buf = s.buf := (rfl)
@[simp] theorem refuseCommand_bufLen (s : State) : (refuseCommand s).bufLen = s.bufLen := (rfl)
@[simp] theorem refuseCommand_digest (s : State) : (refuseCommand s).digest = s.digest := (rfl)
@[simp] theorem refuseCommand_pw (s : State) : (refuseCommand s).pw = s.pw := (rfl)
@[simp] theorem refuseCommand_fin (s : State) : (refuseCommand s).fin = s.fin := (rfl)
@[simp] theorem refuseCommand_dv (s : State) : (refuseCommand s).dv = s.dv := (rfl)
@[simp] theorem refuseCommand_pv (s : State) : (refuseCommand s).pv = s.pv := (rfl)
@[simp] theorem refuseCommand_err (s : State) : (refuseCommand s).err = s.err := (rfl)
@[simp] theorem refuseCommand_ecode (s : State) : (refuseCommand s).ecode = s.ecode := (rfl)
@[simp] theorem refuseCommand_config (s : State) : (refuseCommand s).config = s.config := (rfl)
@[simp] theorem refuseCommand_port (s : State) : (refuseCommand s).port = s.port := (rfl)
@[simp] theorem refuseCommand_resp (s : State) : (refuseCommand s).resp = some (s.ecode ++ 0x00#8) := (rfl)

/-! ### raiseFault -/

@[simp] theorem raiseFault_h (c : FaultCode) (s : State) : (raiseFault c s).h = s.h := (rfl)
@[simp] theorem raiseFault_len (c : FaultCode) (s : State) : (raiseFault c s).len = s.len := (rfl)
@[simp] theorem raiseFault_buf (c : FaultCode) (s : State) : (raiseFault c s).buf = s.buf := (rfl)
@[simp] theorem raiseFault_bufLen (c : FaultCode) (s : State) : (raiseFault c s).bufLen = s.bufLen := (rfl)
@[simp] theorem raiseFault_digest (c : FaultCode) (s : State) : (raiseFault c s).digest = s.digest := (rfl)
@[simp] theorem raiseFault_pw (c : FaultCode) (s : State) : (raiseFault c s).pw = s.pw := (rfl)
@[simp] theorem raiseFault_fin (c : FaultCode) (s : State) : (raiseFault c s).fin = s.fin := (rfl)
@[simp] theorem raiseFault_dv (c : FaultCode) (s : State) : (raiseFault c s).dv = s.dv := (rfl)
@[simp] theorem raiseFault_pv (c : FaultCode) (s : State) : (raiseFault c s).pv = s.pv := (rfl)
@[simp] theorem raiseFault_err (c : FaultCode) (s : State) : (raiseFault c s).err = true := (rfl)
@[simp] theorem raiseFault_ecode (c : FaultCode) (s : State) : (raiseFault c s).ecode = faultNumber c := (rfl)
@[simp] theorem raiseFault_config (c : FaultCode) (s : State) : (raiseFault c s).config = s.config := (rfl)
@[simp] theorem raiseFault_port (c : FaultCode) (s : State) : (raiseFault c s).port = s.port := (rfl)
@[simp] theorem raiseFault_resp (c : FaultCode) (s : State) : (raiseFault c s).resp = some (faultNumber c ++ 0x00#8) := (rfl)

/-! ### initHash -/

@[simp] theorem initHash_h (s : State) : (initHash s).h = iv := (rfl)
@[simp] theorem initHash_len (s : State) : (initHash s).len = 0#61 := (rfl)
@[simp] theorem initHash_buf (s : State) : (initHash s).buf = s.buf := (rfl)
@[simp] theorem initHash_bufLen (s : State) : (initHash s).bufLen = 0#6 := (rfl)
@[simp] theorem initHash_digest (s : State) : (initHash s).digest = s.digest := (rfl)
@[simp] theorem initHash_pw (s : State) : (initHash s).pw = s.pw := (rfl)
@[simp] theorem initHash_fin (s : State) : (initHash s).fin = false := (rfl)
@[simp] theorem initHash_dv (s : State) : (initHash s).dv = s.dv := (rfl)
@[simp] theorem initHash_pv (s : State) : (initHash s).pv = s.pv := (rfl)
@[simp] theorem initHash_err (s : State) : (initHash s).err = s.err := (rfl)
@[simp] theorem initHash_ecode (s : State) : (initHash s).ecode = s.ecode := (rfl)
@[simp] theorem initHash_config (s : State) : (initHash s).config = s.config := (rfl)
@[simp] theorem initHash_port (s : State) : (initHash s).port = s.port := (rfl)
@[simp] theorem initHash_resp (s : State) : (initHash s).resp = s.resp := (rfl)

/-! ### latchDigest -/

@[simp] theorem latchDigest_h (h : Vector Word 8) (s : State) : (latchDigest h s).h = h := (rfl)
@[simp] theorem latchDigest_len (h : Vector Word 8) (s : State) : (latchDigest h s).len = s.len := (rfl)
@[simp] theorem latchDigest_buf (h : Vector Word 8) (s : State) : (latchDigest h s).buf = s.buf := (rfl)
@[simp] theorem latchDigest_bufLen (h : Vector Word 8) (s : State) : (latchDigest h s).bufLen = s.bufLen := (rfl)
@[simp] theorem latchDigest_digest (h : Vector Word 8) (s : State) : (latchDigest h s).digest = memWrite s.digest 0 (serialize h) := (rfl)
@[simp] theorem latchDigest_pw (h : Vector Word 8) (s : State) : (latchDigest h s).pw = s.pw := (rfl)
@[simp] theorem latchDigest_fin (h : Vector Word 8) (s : State) : (latchDigest h s).fin = true := (rfl)
@[simp] theorem latchDigest_dv (h : Vector Word 8) (s : State) : (latchDigest h s).dv = true := (rfl)
@[simp] theorem latchDigest_pv (h : Vector Word 8) (s : State) : (latchDigest h s).pv = false := (rfl)
@[simp] theorem latchDigest_err (h : Vector Word 8) (s : State) : (latchDigest h s).err = s.err := (rfl)
@[simp] theorem latchDigest_ecode (h : Vector Word 8) (s : State) : (latchDigest h s).ecode = s.ecode := (rfl)
@[simp] theorem latchDigest_config (h : Vector Word 8) (s : State) : (latchDigest h s).config = s.config := (rfl)
@[simp] theorem latchDigest_port (h : Vector Word 8) (s : State) : (latchDigest h s).port = s.port := (rfl)
@[simp] theorem latchDigest_resp (h : Vector Word 8) (s : State) : (latchDigest h s).resp = s.resp := (rfl)

/-! ### loadDigest -/

@[simp] theorem loadDigest_h (s : State) : (loadDigest s).h = iv := (rfl)
@[simp] theorem loadDigest_len (s : State) : (loadDigest s).len = 32#61 := (rfl)
@[simp] theorem loadDigest_buf (s : State) : (loadDigest s).buf = memWrite s.buf 0 (memRead s.digest 0 32) := (rfl)
@[simp] theorem loadDigest_bufLen (s : State) : (loadDigest s).bufLen = 32#6 := (rfl)
@[simp] theorem loadDigest_digest (s : State) : (loadDigest s).digest = s.digest := (rfl)
@[simp] theorem loadDigest_pw (s : State) : (loadDigest s).pw = s.pw := (rfl)
@[simp] theorem loadDigest_fin (s : State) : (loadDigest s).fin = s.fin := (rfl)
@[simp] theorem loadDigest_dv (s : State) : (loadDigest s).dv = s.dv := (rfl)
@[simp] theorem loadDigest_pv (s : State) : (loadDigest s).pv = s.pv := (rfl)
@[simp] theorem loadDigest_err (s : State) : (loadDigest s).err = s.err := (rfl)
@[simp] theorem loadDigest_ecode (s : State) : (loadDigest s).ecode = s.ecode := (rfl)
@[simp] theorem loadDigest_config (s : State) : (loadDigest s).config = s.config := (rfl)
@[simp] theorem loadDigest_port (s : State) : (loadDigest s).port = s.port := (rfl)
@[simp] theorem loadDigest_resp (s : State) : (loadDigest s).resp = s.resp := (rfl)

/-! ### encodeBody -/

@[simp] theorem encodeBody_h (s : State) : (encodeBody s).h = s.h := (rfl)
@[simp] theorem encodeBody_len (s : State) : (encodeBody s).len = s.len := (rfl)
@[simp] theorem encodeBody_buf (s : State) : (encodeBody s).buf = s.buf := (rfl)
@[simp] theorem encodeBody_bufLen (s : State) : (encodeBody s).bufLen = s.bufLen := (rfl)
@[simp] theorem encodeBody_digest (s : State) : (encodeBody s).digest = s.digest := (rfl)
@[simp] theorem encodeBody_pw (s : State) : (encodeBody s).pw = memWrite s.pw 0 (encodeDigest (memRead s.digest 0 32)) := (rfl)
@[simp] theorem encodeBody_fin (s : State) : (encodeBody s).fin = s.fin := (rfl)
@[simp] theorem encodeBody_dv (s : State) : (encodeBody s).dv = s.dv := (rfl)
@[simp] theorem encodeBody_pv (s : State) : (encodeBody s).pv = true := (rfl)
@[simp] theorem encodeBody_err (s : State) : (encodeBody s).err = s.err := (rfl)
@[simp] theorem encodeBody_ecode (s : State) : (encodeBody s).ecode = s.ecode := (rfl)
@[simp] theorem encodeBody_config (s : State) : (encodeBody s).config = s.config := (rfl)
@[simp] theorem encodeBody_port (s : State) : (encodeBody s).port = s.port := (rfl)
@[simp] theorem encodeBody_resp (s : State) : (encodeBody s).resp = s.resp := (rfl)

/-! ### presentWord -/

@[simp] theorem presentWord_h (w : CmdWord) (s : State) : (presentWord w s).h = s.h := (rfl)
@[simp] theorem presentWord_len (w : CmdWord) (s : State) : (presentWord w s).len = s.len := (rfl)
@[simp] theorem presentWord_buf (w : CmdWord) (s : State) : (presentWord w s).buf = s.buf := (rfl)
@[simp] theorem presentWord_bufLen (w : CmdWord) (s : State) : (presentWord w s).bufLen = s.bufLen := (rfl)
@[simp] theorem presentWord_digest (w : CmdWord) (s : State) : (presentWord w s).digest = s.digest := (rfl)
@[simp] theorem presentWord_pw (w : CmdWord) (s : State) : (presentWord w s).pw = s.pw := (rfl)
@[simp] theorem presentWord_fin (w : CmdWord) (s : State) : (presentWord w s).fin = s.fin := (rfl)
@[simp] theorem presentWord_dv (w : CmdWord) (s : State) : (presentWord w s).dv = s.dv := (rfl)
@[simp] theorem presentWord_pv (w : CmdWord) (s : State) : (presentWord w s).pv = s.pv := (rfl)
@[simp] theorem presentWord_err (w : CmdWord) (s : State) : (presentWord w s).err = s.err := (rfl)
@[simp] theorem presentWord_ecode (w : CmdWord) (s : State) : (presentWord w s).ecode = s.ecode := (rfl)
@[simp] theorem presentWord_config (w : CmdWord) (s : State) : (presentWord w s).config = s.config := (rfl)
@[simp] theorem presentWord_port (w : CmdWord) (s : State) : (presentWord w s).port = .command w :: s.port := (rfl)
@[simp] theorem presentWord_resp (w : CmdWord) (s : State) : (presentWord w s).resp = s.resp := (rfl)

/-! ### applyReset -/

@[simp] theorem applyReset_h (s : State) : (applyReset s).h = iv := (rfl)
@[simp] theorem applyReset_len (s : State) : (applyReset s).len = 0#61 := (rfl)
@[simp] theorem applyReset_buf (s : State) : (applyReset s).buf = Config.bufAfterReset s.buf := (rfl)
@[simp] theorem applyReset_bufLen (s : State) : (applyReset s).bufLen = 0#6 := (rfl)
@[simp] theorem applyReset_digest (s : State) : (applyReset s).digest = Config.digestAfterReset s.digest := (rfl)
@[simp] theorem applyReset_pw (s : State) : (applyReset s).pw = Config.pwAfterReset s.pw := (rfl)
@[simp] theorem applyReset_fin (s : State) : (applyReset s).fin = false := (rfl)
@[simp] theorem applyReset_dv (s : State) : (applyReset s).dv = false := (rfl)
@[simp] theorem applyReset_pv (s : State) : (applyReset s).pv = false := (rfl)
@[simp] theorem applyReset_err (s : State) : (applyReset s).err = false := (rfl)
@[simp] theorem applyReset_ecode (s : State) : (applyReset s).ecode = 0#4 := (rfl)
@[simp] theorem applyReset_config (s : State) : (applyReset s).config = s.config := (rfl)
@[simp] theorem applyReset_port (s : State) : (applyReset s).port = s.port := (rfl)
@[simp] theorem applyReset_resp (s : State) : (applyReset s).resp = none := (rfl)

end Sys2Proof.Machine
end

