-- ==== Sys2Proof/Laws/Ops.lean ====
section
/-! SUPPORT. What the shared operations can do, said once: the order of checks (R119), fault entry (R120) and the
codes (R118). -/

namespace Sys2Proof.Machine

variable {check : State → Option FaultCode} {perform : State → State} {s : State}

/-- In the faulted state a command is refused (R121). -/
theorem runCommand_refused (h : s.err = true) : runCommand check perform s = .next (refuseCommand s) := by
  simp [runCommand, h]

/-- The first check that applies ends the command (R119, R120). -/
theorem runCommand_fault {c : FaultCode} (h : s.err = false) (hc : check s = some c) :
    runCommand check perform s = .next (raiseFault c s) := by
  simp [runCommand, h, hc]

/-- With no check that applies the command is performed (R119 line 7). -/
theorem runCommand_performed (h : s.err = false) (hc : check s = none) :
    runCommand check perform s = .next (perform s) := by
  simp [runCommand, h, hc]

/-- Everything a command other than `RDST` can do: it answers, and it was refused, it faulted, or it was performed. -/
theorem runCommand_cases (check : State → Option FaultCode) (perform : State → State) (s : State) :
    ∃ t, runCommand check perform s = .next t ∧
      ((s.err = true ∧ t = refuseCommand s) ∨
       (s.err = false ∧ ∃ c, check s = some c ∧ t = raiseFault c s) ∨
       (s.err = false ∧ check s = none ∧ t = perform s)) := by
  rcases he : s.err with _ | _
  · rcases hc : check s with _ | c
    · exact ⟨_, runCommand_performed he hc, .inr (.inr ⟨rfl, rfl, rfl⟩)⟩
    · exact ⟨_, runCommand_fault he hc, .inr (.inl ⟨rfl, c, rfl, rfl⟩)⟩
  · exact ⟨_, runCommand_refused he, .inl ⟨rfl, rfl⟩⟩

/-- The codes are 1 to 6 (R118). -/
theorem faultNumber_range (c : FaultCode) : 1 ≤ (faultNumber c).toNat ∧ (faultNumber c).toNat ≤ 6 := by
  cases c <;> decide

theorem faultNumber_ne_zero (c : FaultCode) : faultNumber c ≠ 0 := by cases c <;> decide

/-- Different faults have different codes (R118). -/
theorem faultNumber_injective {c d : FaultCode} (h : faultNumber c = faultNumber d) : c = d := by
  revert h; cases c <;> cases d <;> decide

/-- The event a step takes, and the state it is run on (R59). -/
@[simp] theorem takeEvent_nil (h : s.port = []) : takeEvent s = none := by simp [takeEvent, h]

@[simp] theorem takeEvent_cons {e : PortEvent} {rest : List PortEvent} (h : s.port = e :: rest) :
    takeEvent s = some (e, { s with port := rest }) := by simp [takeEvent, h]

/-- A word presented is the next event (R58). -/
@[simp] theorem takeEvent_presentWord (w : CmdWord) (s : State) :
    takeEvent (presentWord w s) = some (.command w, s) := rfl

end Sys2Proof.Machine
end

