-- ==== Sys2Proof/Laws/HashState.lean ====
section
/-! SUPPORT. The laws of the hash state machine: what an append does to each field (R83), the lengths of the padding
(R85) and of a digest (R88), and what a finalization does to each field (R87). -/

namespace Sys2Proof.Machine

/-! ### The append (R83) -/

@[simp] theorem appendByte_digest (b : Byte) (s : State) : (appendByte b s).digest = s.digest := by
  unfold appendByte; split <;> rfl

@[simp] theorem appendByte_pw (b : Byte) (s : State) : (appendByte b s).pw = s.pw := by
  unfold appendByte; split <;> rfl

@[simp] theorem appendByte_fin (b : Byte) (s : State) : (appendByte b s).fin = s.fin := by
  unfold appendByte; split <;> rfl

@[simp] theorem appendByte_dv (b : Byte) (s : State) : (appendByte b s).dv = s.dv := by
  unfold appendByte; split <;> rfl

@[simp] theorem appendByte_pv (b : Byte) (s : State) : (appendByte b s).pv = s.pv := by
  unfold appendByte; split <;> rfl

@[simp] theorem appendByte_err (b : Byte) (s : State) : (appendByte b s).err = s.err := by
  unfold appendByte; split <;> rfl

@[simp] theorem appendByte_ecode (b : Byte) (s : State) : (appendByte b s).ecode = s.ecode := by
  unfold appendByte; split <;> rfl

@[simp] theorem appendByte_config (b : Byte) (s : State) : (appendByte b s).config = s.config := by
  unfold appendByte; split <;> rfl

@[simp] theorem appendByte_port (b : Byte) (s : State) : (appendByte b s).port = s.port := by
  unfold appendByte; split <;> rfl

@[simp] theorem appendByte_resp (b : Byte) (s : State) : (appendByte b s).resp = s.resp := by
  unfold appendByte; split <;> rfl

@[simp] theorem appendByte_len (b : Byte) (s : State) : (appendByte b s).len = s.len + 1 := by
  unfold appendByte; split <;> rfl

@[simp] theorem appendByte_buf (b : Byte) (s : State) : (appendByte b s).buf = storeByte b s := by
  unfold appendByte; split <;> rfl

/-- The append that completes a block (R83). -/
theorem appendByte_full (b : Byte) {s : State} (h : s.bufLen = 63#6) :
    (appendByte b s).bufLen = 0#6 ∧ (appendByte b s).h = compress s.h (storeByte b s).toList := by
  simp [appendByte, h]

/-- The append that does not complete a block (R83). -/
theorem appendByte_partly (b : Byte) {s : State} (h : s.bufLen ≠ 63#6) :
    (appendByte b s).bufLen = s.bufLen + 1 ∧ (appendByte b s).h = s.h := by
  simp [appendByte, h]

/-- What each cell of `BUF` holds after the append: the byte at `BUFLEN`, its old byte elsewhere. -/
theorem getElem_storeByte (b : Byte) (s : State) (j : Nat) (hj : j < 64) :
    (storeByte b s)[j] = if j = s.bufLen.toNat then b else s.buf[j] := by
  rw [storeByte, getElem_memWrite]
  by_cases h : j = s.bufLen.toNat
  · rw [dif_pos ⟨by omega, by simp; omega⟩, if_pos h]; simp [h]
  · rw [dif_neg (by simp; omega), if_neg h]

/-- The stored byte extends the meaningful bytes of `BUF` by it. -/
theorem memRead_storeByte (b : Byte) (s : State) :
    memRead (storeByte b s) 0 (s.bufLen.toNat + 1) = memRead s.buf 0 s.bufLen.toNat ++ [b] :=
  memRead_memWrite_snoc s.buf s.bufLen.toNat s.bufLen.isLt b

/-! ### The padding (R85) -/

theorem length_pad (s : State) :
    (pad s).length = s.bufLen.toNat + 1 + padZeros s.bufLen.toNat + 8 := by
  have := s.bufLen.isLt
  simp [pad]; omega

/-- The padded tail has as many bytes as the count of buffered bytes says (R85). -/
theorem padZeros_cases (n : Nat) (h : n < 64) :
    (n ≤ 55 ∧ n + 1 + padZeros n + 8 = 64) ∨ (56 ≤ n ∧ n + 1 + padZeros n + 8 = 128) := by
  unfold padZeros; split <;> omega

/-- One compression of a tail of one block (R86). -/
theorem compressTail_one (h : Vector Word 8) {p : List Byte} (hp : p.length = 64) :
    compressTail h p = compress h p := by
  simp [compressTail, hp, List.take_of_length_le]

/-- Two compressions of a tail of two blocks (R86). -/
theorem compressTail_two (h : Vector Word 8) {p : List Byte} (hp : p.length = 128) :
    compressTail h p = compress (compress h (p.take 64)) (p.drop 64) := by
  simp [compressTail, hp]

/-! ### The digest (R88) and the finalization (R87) -/

@[simp] theorem length_serialize (h : Vector Word 8) : (serialize h).length = 32 := by
  simp [serialize, List.length_flatMap]

/-- Byte `4k + j` of a serialized state is byte `j` of its word `k` (R37, R88). -/
theorem getElem?_serialize (h : Vector Word 8) (k : Fin 8) (j : Fin 4) :
    (serialize h)[4 * k.val + j.val]? = some (byteOfWord h[k] j) := by
  obtain ⟨l, hl⟩ := h
  obtain ⟨l⟩ := l
  simp only [List.size_toArray] at hl
  match l, hl with
  | [a0, a1, a2, a3, a4, a5, a6, a7], _ => fin_cases k <;> fin_cases j <;> rfl

/-- `DIGEST` after it is latched is the serialized `H` (R87, R88). -/
@[simp] theorem toList_latched_digest (h : Vector Word 8) (s : State) :
    (latchDigest h s).digest.toList = serialize h := by
  rw [latchDigest_digest, toList_memWrite_all _ _ (length_serialize h)]

@[simp] theorem finalizeBody_len (s : State) : (finalizeBody s).len = s.len := (rfl)
@[simp] theorem finalizeBody_buf (s : State) : (finalizeBody s).buf = s.buf := (rfl)
@[simp] theorem finalizeBody_bufLen (s : State) : (finalizeBody s).bufLen = s.bufLen := (rfl)
@[simp] theorem finalizeBody_pw (s : State) : (finalizeBody s).pw = s.pw := (rfl)
@[simp] theorem finalizeBody_err (s : State) : (finalizeBody s).err = s.err := (rfl)
@[simp] theorem finalizeBody_ecode (s : State) : (finalizeBody s).ecode = s.ecode := (rfl)
@[simp] theorem finalizeBody_config (s : State) : (finalizeBody s).config = s.config := (rfl)
@[simp] theorem finalizeBody_port (s : State) : (finalizeBody s).port = s.port := (rfl)
@[simp] theorem finalizeBody_resp (s : State) : (finalizeBody s).resp = s.resp := (rfl)
@[simp] theorem finalizeBody_fin (s : State) : (finalizeBody s).fin = true := (rfl)
@[simp] theorem finalizeBody_dv (s : State) : (finalizeBody s).dv = true := (rfl)
@[simp] theorem finalizeBody_pv (s : State) : (finalizeBody s).pv = false := (rfl)
@[simp] theorem finalizeBody_h (s : State) : (finalizeBody s).h = compressTail s.h (pad s) := (rfl)

theorem finalizeBody_digest (s : State) :
    (finalizeBody s).digest.toList = serialize (finalizeBody s).h := toList_latched_digest _ _

end Sys2Proof.Machine
end

