-- ==== Sys2Proof/Laws/Derivation.lean ====
section
/-! SUPPORT. The laws of the rehash and of its repetition (R95, R96), field by field. -/

namespace Sys2Proof.Machine

/-! ### One rehash (R95) -/

@[simp] theorem rehashBody_pw (s : State) : (rehashBody s).pw = s.pw := (rfl)
@[simp] theorem rehashBody_err (s : State) : (rehashBody s).err = s.err := (rfl)
@[simp] theorem rehashBody_ecode (s : State) : (rehashBody s).ecode = s.ecode := (rfl)
@[simp] theorem rehashBody_config (s : State) : (rehashBody s).config = s.config := (rfl)
@[simp] theorem rehashBody_port (s : State) : (rehashBody s).port = s.port := (rfl)
@[simp] theorem rehashBody_resp (s : State) : (rehashBody s).resp = s.resp := (rfl)
@[simp] theorem rehashBody_len (s : State) : (rehashBody s).len = 32#61 := (rfl)
@[simp] theorem rehashBody_bufLen (s : State) : (rehashBody s).bufLen = 32#6 := (rfl)
@[simp] theorem rehashBody_fin (s : State) : (rehashBody s).fin = true := (rfl)
@[simp] theorem rehashBody_dv (s : State) : (rehashBody s).dv = true := (rfl)
@[simp] theorem rehashBody_pv (s : State) : (rehashBody s).pv = false := (rfl)
@[simp] theorem rehashBody_buf (s : State) :
    (rehashBody s).buf = memWrite s.buf 0 (memRead s.digest 0 32) := (rfl)

theorem rehashBody_digest (s : State) : (rehashBody s).digest.toList = serialize (rehashBody s).h :=
  finalizeBody_digest _

/-- The padded block of a rehash: the 32 digest bytes, 0x80, 23 zero bytes, the bit length 256 (R95). -/
theorem pad_loadDigest (s : State) :
    pad (loadDigest s) = s.digest.toList ++ [0x80#8] ++ zeros 23 ++ [0, 0, 0, 0, 0, 0, 1, 0] := by
  have h : memRead (loadDigest s).buf 0 32 = s.digest.toList := by
    have := memRead_memWrite_head s.buf (memRead s.digest 0 32) (by simp)
    simpa using this
  have hn : (loadDigest s).bufLen.toNat = 32 := rfl
  have hz : padZeros 32 = 23 := rfl
  have hl : be64 (bitLength (loadDigest s).len) = [0, 0, 0, 0, 0, 0, 1, 0] := by rw [loadDigest_len]; decide
  rw [pad, hn, h, hz, hl]

/-- A rehash runs exactly one compression, from `IV` (R95). -/
theorem rehashBody_h (s : State) : (rehashBody s).h = compress iv (pad (loadDigest s)) := by
  rw [rehashBody, finalizeBody_h, compressTail_one _ (by simp [pad_loadDigest])]
  rfl

/-! ### Many rehashes (R96) -/

@[simp] theorem rehashTimes_pw (n : Nat) : ∀ s : State, (rehashTimes n s).pw = s.pw := by
  induction n with
  | zero => intro s; rfl
  | succ n ih => intro s; rw [rehashTimes, ih, rehashBody_pw]

@[simp] theorem rehashTimes_err (n : Nat) : ∀ s : State, (rehashTimes n s).err = s.err := by
  induction n with
  | zero => intro s; rfl
  | succ n ih => intro s; rw [rehashTimes, ih, rehashBody_err]

@[simp] theorem rehashTimes_ecode (n : Nat) : ∀ s : State, (rehashTimes n s).ecode = s.ecode := by
  induction n with
  | zero => intro s; rfl
  | succ n ih => intro s; rw [rehashTimes, ih, rehashBody_ecode]

@[simp] theorem rehashTimes_config (n : Nat) : ∀ s : State, (rehashTimes n s).config = s.config := by
  induction n with
  | zero => intro s; rfl
  | succ n ih => intro s; rw [rehashTimes, ih, rehashBody_config]

@[simp] theorem rehashTimes_port (n : Nat) : ∀ s : State, (rehashTimes n s).port = s.port := by
  induction n with
  | zero => intro s; rfl
  | succ n ih => intro s; rw [rehashTimes, ih, rehashBody_port]

@[simp] theorem rehashTimes_resp (n : Nat) : ∀ s : State, (rehashTimes n s).resp = s.resp := by
  induction n with
  | zero => intro s; rfl
  | succ n ih => intro s; rw [rehashTimes, ih, rehashBody_resp]

/-- One more rehash, at the end. -/
theorem rehashTimes_succ (n : Nat) : ∀ s : State, rehashTimes (n + 1) s = rehashBody (rehashTimes n s) := by
  induction n with
  | zero => intro s; rfl
  | succ n ih => intro s; rw [rehashTimes, ih]; rfl

/-- What holds after every rehash holds after a positive number of them. -/
theorem rehashTimes_induction {P : State → Prop} (h : ∀ s, P (rehashBody s)) (n : Nat) (hn : 0 < n) (s : State) :
    P (rehashTimes n s) := by
  obtain ⟨m, rfl⟩ : ∃ m, n = m + 1 := ⟨n - 1, by omega⟩
  rw [rehashTimes_succ]
  exact h _

/-- Only `BUF[0..31]` is written by rehashes (R95). -/
theorem rehashTimes_buf (n : Nat) (j : Nat) (h32 : 32 ≤ j) (hj : j < 64) : ∀ s : State,
    (rehashTimes n s).buf[j] = s.buf[j] := by
  induction n with
  | zero => intro s; rfl
  | succ n ih =>
    intro s
    simp only [rehashTimes, ih, rehashBody_buf]
    rw [getElem_memWrite, dif_neg (by simp; omega)]

/-! ### `ITER` and `DERIVE` (R96, R97) -/

theorem iterBody_eq (s : State) : iterBody s = rehashTimes iterCount s := by unfold iterBody; rfl

theorem deriveBody_eq (s : State) : deriveBody s = rehashTimes iterCount (finalizeBody s) := by
  unfold deriveBody; rfl

/-- `DERIVE` is `FINAL`, then `ITER` (R97). -/
theorem deriveBody_eq_iterBody (s : State) : deriveBody s = iterBody (finalizeBody s) := by
  rw [deriveBody_eq, iterBody_eq]

@[simp] theorem iterBody_pw (s : State) : (iterBody s).pw = s.pw := by
  rw [iterBody_eq, rehashTimes_pw]
@[simp] theorem iterBody_err (s : State) : (iterBody s).err = s.err := by
  rw [iterBody_eq, rehashTimes_err]
@[simp] theorem iterBody_ecode (s : State) : (iterBody s).ecode = s.ecode := by
  rw [iterBody_eq, rehashTimes_ecode]
@[simp] theorem iterBody_config (s : State) : (iterBody s).config = s.config := by
  rw [iterBody_eq, rehashTimes_config]
@[simp] theorem iterBody_port (s : State) : (iterBody s).port = s.port := by
  rw [iterBody_eq, rehashTimes_port]
@[simp] theorem iterBody_resp (s : State) : (iterBody s).resp = s.resp := by
  rw [iterBody_eq, rehashTimes_resp]
@[simp] theorem deriveBody_pw (s : State) : (deriveBody s).pw = s.pw := by
  rw [deriveBody_eq, rehashTimes_pw, finalizeBody_pw]
@[simp] theorem deriveBody_err (s : State) : (deriveBody s).err = s.err := by
  rw [deriveBody_eq, rehashTimes_err, finalizeBody_err]
@[simp] theorem deriveBody_ecode (s : State) : (deriveBody s).ecode = s.ecode := by
  rw [deriveBody_eq, rehashTimes_ecode, finalizeBody_ecode]
@[simp] theorem deriveBody_config (s : State) : (deriveBody s).config = s.config := by
  rw [deriveBody_eq, rehashTimes_config, finalizeBody_config]
@[simp] theorem deriveBody_port (s : State) : (deriveBody s).port = s.port := by
  rw [deriveBody_eq, rehashTimes_port, finalizeBody_port]
@[simp] theorem deriveBody_resp (s : State) : (deriveBody s).resp = s.resp := by
  rw [deriveBody_eq, rehashTimes_resp, finalizeBody_resp]

/-- What every rehash establishes holds after `ITER` and after `DERIVE`. -/
theorem iterBody_induction {P : State → Prop} (h : ∀ s, P (rehashBody s)) (s : State) : P (iterBody s) := by
  rw [iterBody_eq]; exact rehashTimes_induction h iterCount (by decide) s

theorem deriveBody_induction {P : State → Prop} (h : ∀ s, P (rehashBody s)) (s : State) : P (deriveBody s) := by
  rw [deriveBody_eq]; exact rehashTimes_induction h iterCount (by decide) _

@[simp] theorem iterBody_len (s : State) : (iterBody s).len = 32#61 :=
  iterBody_induction (P := fun t => t.len = 32#61) rehashBody_len s
@[simp] theorem iterBody_bufLen (s : State) : (iterBody s).bufLen = 32#6 :=
  iterBody_induction (P := fun t => t.bufLen = 32#6) rehashBody_bufLen s
@[simp] theorem iterBody_fin (s : State) : (iterBody s).fin = true :=
  iterBody_induction (P := fun t => t.fin = true) rehashBody_fin s
@[simp] theorem iterBody_dv (s : State) : (iterBody s).dv = true :=
  iterBody_induction (P := fun t => t.dv = true) rehashBody_dv s
@[simp] theorem iterBody_pv (s : State) : (iterBody s).pv = false :=
  iterBody_induction (P := fun t => t.pv = false) rehashBody_pv s

theorem iterBody_digest (s : State) : (iterBody s).digest.toList = serialize (iterBody s).h :=
  iterBody_induction (P := fun t => t.digest.toList = serialize t.h) rehashBody_digest s

@[simp] theorem deriveBody_len (s : State) : (deriveBody s).len = 32#61 :=
  deriveBody_induction (P := fun t => t.len = 32#61) rehashBody_len s
@[simp] theorem deriveBody_bufLen (s : State) : (deriveBody s).bufLen = 32#6 :=
  deriveBody_induction (P := fun t => t.bufLen = 32#6) rehashBody_bufLen s
@[simp] theorem deriveBody_fin (s : State) : (deriveBody s).fin = true :=
  deriveBody_induction (P := fun t => t.fin = true) rehashBody_fin s
@[simp] theorem deriveBody_dv (s : State) : (deriveBody s).dv = true :=
  deriveBody_induction (P := fun t => t.dv = true) rehashBody_dv s
@[simp] theorem deriveBody_pv (s : State) : (deriveBody s).pv = false :=
  deriveBody_induction (P := fun t => t.pv = false) rehashBody_pv s

theorem deriveBody_digest (s : State) : (deriveBody s).digest.toList = serialize (deriveBody s).h :=
  deriveBody_induction (P := fun t => t.digest.toList = serialize t.h) rehashBody_digest s

end Sys2Proof.Machine
end

