-- ==== Sys2Proof/Laws/Encoder.lean ====
section
/-! SUPPORT. The laws of the output encoder (R102 to R104). -/

namespace Sys2Proof.Machine

@[simp] theorem length_alphabet : alphabet.length = 64 := rfl

@[simp] theorem length_encodeDigest (d : List Byte) : (encodeDigest d).length = d.length := by
  simp [encodeDigest]

/-- Masking a byte with 0x3F takes it modulo 64 (R102). -/
theorem toNat_mask6 (b : Byte) : (b &&& mask6).toNat = b.toNat % 64 := by
  rw [BitVec.toNat_and]
  exact Nat.and_two_pow_sub_one_eq_mod b.toNat 6

/-- The symbol of a byte is the entry of the alphabet at its low six bits (R102). -/
theorem getElem?_alphabet (b : Byte) : alphabet[b.toNat % 64]? = some (symbolOf b) := by
  have h : b.toNat % 64 < alphabet.length := by simp; omega
  rw [symbolOf, toNat_mask6, List.getD_eq_getElem?_getD, List.getElem?_eq_getElem h]
  rfl

/-- A symbol is an entry of the alphabet. -/
theorem symbolOf_mem (b : Byte) : symbolOf b ∈ alphabet := List.mem_of_getElem? (getElem?_alphabet b)

/-- `PW` after `ENCODE` is the encoding of `DIGEST` (R104). -/
@[simp] theorem toList_encoded_pw (s : State) :
    (encodeBody s).pw.toList = encodeDigest s.digest.toList := by
  rw [encodeBody_pw, memRead_all, toList_memWrite_all _ _ (by simp)]

/-! ### `GEN` (R105) -/

@[simp] theorem genBody_h (s : State) : (genBody s).h = (deriveBody s).h := encodeBody_h _
@[simp] theorem genBody_len (s : State) : (genBody s).len = 32#61 := by
  rw [genBody, encodeBody_len, deriveBody_len]
@[simp] theorem genBody_buf (s : State) : (genBody s).buf = (deriveBody s).buf := encodeBody_buf _
@[simp] theorem genBody_bufLen (s : State) : (genBody s).bufLen = 32#6 := by
  rw [genBody, encodeBody_bufLen, deriveBody_bufLen]
@[simp] theorem genBody_digest (s : State) : (genBody s).digest = (deriveBody s).digest := encodeBody_digest _
@[simp] theorem genBody_fin (s : State) : (genBody s).fin = true := by
  rw [genBody, encodeBody_fin, deriveBody_fin]
@[simp] theorem genBody_dv (s : State) : (genBody s).dv = true := by
  rw [genBody, encodeBody_dv, deriveBody_dv]
@[simp] theorem genBody_pv (s : State) : (genBody s).pv = true := encodeBody_pv _
@[simp] theorem genBody_err (s : State) : (genBody s).err = s.err := by
  rw [genBody, encodeBody_err, deriveBody_err]
@[simp] theorem genBody_ecode (s : State) : (genBody s).ecode = s.ecode := by
  rw [genBody, encodeBody_ecode, deriveBody_ecode]
@[simp] theorem genBody_config (s : State) : (genBody s).config = s.config := by
  rw [genBody, encodeBody_config, deriveBody_config]
@[simp] theorem genBody_port (s : State) : (genBody s).port = s.port := by
  rw [genBody, encodeBody_port, deriveBody_port]
@[simp] theorem genBody_resp (s : State) : (genBody s).resp = s.resp := by
  rw [genBody, encodeBody_resp, deriveBody_resp]

end Sys2Proof.Machine
end

