-- ==== Sys2Proof/Laws/Exec.lean ====
section
/-! SUPPORT. Every command but `RDST` is one call of `runCommand`: its check and its body, once, so that a proof over all
commands cites this and unfolds no meaning (R119). -/

namespace Sys2Proof.Machine

/-- The check a command makes (R119 lines 3 to 6). -/
def checkOf : Instr → State → Option FaultCode
  | .nop | .init | .rdst => noCheck
  | .absorb _ | .sep => appendCheck
  | .final | .derive | .gen => finalizeCheck
  | .rehash | .iter => rehashCheck
  | .encode => digestCheck
  | .rddig i => readDigestCheck i
  | .rdpw i => readPasswordCheck i

/-- The body of a command, without its response. -/
def bodyOf : Instr → State → State
  | .nop | .rddig _ | .rdpw _ | .rdst => id
  | .init => initHash
  | .absorb b => appendByte b
  | .sep => appendByte sepByte
  | .final => finalizeBody
  | .rehash => rehashBody
  | .iter => iterBody
  | .derive => deriveBody
  | .encode => encodeBody
  | .gen => genBody

/-- The byte a command that completes responds with (R54). -/
def dataOf : Instr → State → Byte
  | .rddig i, s => byteAt s.digest i
  | .rdpw i, s => byteAt s.pw i
  | .rdst, s => statusWord s
  | .nop, _ | .init, _ | .absorb _, _ | .sep, _ | .final, _ | .rehash, _ | .iter, _ | .derive, _ | .encode, _ | .gen, _ => 0x00#8

/-- The performed command: its body, then its response. -/
def performOf (i : Instr) (s : State) : State := respond 0#4 (dataOf i s) (bodyOf i s)

theorem exec_eq_runCommand (i : Instr) (h : i ≠ .rdst) (s : State) :
    exec i s = runCommand (checkOf i) (performOf i) s := by
  cases i <;> first | rfl | exact absurd rfl h

theorem exec_rdst (s : State) : exec .rdst s = .next (performOf .rdst s) := rfl

/-- A command whose checks all pass is performed (R119 line 7). -/
theorem exec_performed {i : Instr} {s : State} (h : s.err = false) (hc : checkOf i s = none) :
    exec i s = .next (performOf i s) := by
  by_cases hi : i = .rdst
  · subst hi; rfl
  · rw [exec_eq_runCommand i hi, runCommand_performed h hc]

/-- A command whose check applies faults (R119, R120). -/
theorem exec_fault {i : Instr} {s : State} {c : FaultCode} (h : s.err = false) (hc : checkOf i s = some c) :
    exec i s = .next (raiseFault c s) := by
  have hi : i ≠ .rdst := by rintro rfl; cases hc
  rw [exec_eq_runCommand i hi, runCommand_fault h hc]

/-- Every command but `RDST` is refused in the faulted state (R121). -/
theorem exec_refused {i : Instr} {s : State} (hi : i ≠ .rdst) (h : s.err = true) :
    exec i s = .next (refuseCommand s) := by
  rw [exec_eq_runCommand i hi, runCommand_refused h]

/-- Everything a command can do: refused, faulted, or performed. -/
theorem exec_cases {i : Instr} {s t : State} (h : exec i s = .next t) :
    (s.err = true ∧ i ≠ .rdst ∧ t = refuseCommand s) ∨
    (s.err = false ∧ ∃ c, checkOf i s = some c ∧ t = raiseFault c s) ∨
    ((s.err = false ∨ i = .rdst) ∧ checkOf i s = none ∧ t = performOf i s) := by
  by_cases hi : i = .rdst
  · subst hi
    rw [exec_rdst] at h
    exact .inr (.inr ⟨.inr rfl, rfl, by cases h; rfl⟩)
  · obtain ⟨u, hu, hcases⟩ := runCommand_cases (checkOf i) (performOf i) s
    rw [exec_eq_runCommand i hi, hu] at h
    cases h
    rcases hcases with ⟨he, rfl⟩ | ⟨he, c, hc, rfl⟩ | ⟨he, hc, rfl⟩
    · exact .inl ⟨he, hi, rfl⟩
    · exact .inr (.inl ⟨he, c, hc, rfl⟩)
    · exact .inr (.inr ⟨.inl he, hc, rfl⟩)

/-- Every command answers a next state. -/
theorem exec_answers (i : Instr) (s : State) : ∃ t, exec i s = .next t := by
  by_cases hi : i = .rdst
  · exact ⟨_, by rw [hi, exec_rdst]⟩
  · obtain ⟨t, ht, -⟩ := runCommand_cases (checkOf i) (performOf i) s
    exact ⟨t, by rw [exec_eq_runCommand i hi, ht]⟩

/-- The check of a command is the first line of R119 that applies to it. -/
theorem firstFault_eq (i : Instr) (s : State) : firstFault i s = (checkOf i s).map faultNumber := by
  cases i <;> cases hf : s.fin <;> cases hd : s.dv <;> cases hp : s.pv <;>
    simp [firstFault, checkOf, noCheck, appendCheck, finalizeCheck, rehashCheck, digestCheck, readDigestCheck,
      readPasswordCheck, indexCheck, lastIndex, Instr.appends, Instr.finalizes, Instr.rehashes, Instr.needsDigest,
      Instr.needsPassword, Instr.readIndex, faultNumber, hf, hd, hp] <;>
    split <;> rename_i h <;> simp [h, faultNumber]

/-- Fault entry is what R120 writes. -/
theorem raiseFault_eq (c : FaultCode) (s : State) : raiseFault c s = faulted (faultNumber c) s := rfl

/-- A refused command is what R121 writes. -/
theorem refuseCommand_eq (s : State) : refuseCommand s = refused s := rfl

/-- Commands run in two parts. -/
theorem runAll_append (is js : List Instr) : ∀ s t : State, runAll is s = .next t →
    runAll (is ++ js) s = runAll js t := by
  induction is with
  | nil => intro s t h; cases h; rfl
  | cons i is ih =>
    intro s t h
    obtain ⟨u, hu⟩ := exec_answers i s
    simp only [runAll, hu, List.cons_append] at h ⊢
    exact ih u t h

end Sys2Proof.Machine
end

