-- ==== Sys2Proof/Laws/FunctionLevel.lean ====
section
/-! SUPPORT. The laws of cutting a message into blocks and of the chain over them (R79, R90), and how the padding of the
buffered remainder extends the whole blocks of the message (R85). -/

namespace Sys2Proof.Machine

@[simp] theorem length_cutBlocks (n : Nat) : ∀ m : List Byte, (cutBlocks n m).length = n := by
  induction n with
  | zero => intro m; rfl
  | succ n ih => intro m; simp [cutBlocks, ih]

/-- Cutting in two parts. -/
theorem cutBlocks_add (a b : Nat) : ∀ m : List Byte,
    cutBlocks (a + b) m = cutBlocks a m ++ cutBlocks b (m.drop (64 * a)) := by
  induction a with
  | zero => intro m; simp [cutBlocks]
  | succ a ih =>
    intro m
    rw [Nat.succ_add, cutBlocks, ih, cutBlocks, List.cons_append, List.drop_drop]
    congr 4
    omega

/-- The first blocks are those of the first bytes alone. -/
theorem cutBlocks_append (n : Nat) (x : List Byte) : ∀ m : List Byte, 64 * n ≤ m.length →
    cutBlocks n (m ++ x) = cutBlocks n m := by
  induction n with
  | zero => intro m _; rfl
  | succ n ih =>
    intro m h
    rw [cutBlocks, cutBlocks, List.take_append_of_le_length (by omega), List.drop_append_of_le_length (by omega),
      ih _ (by simp; omega)]

/-- The blocks together are the bytes they were cut from (R79). -/
theorem flatten_cutBlocks (n : Nat) : ∀ m : List Byte, (cutBlocks n m).flatten = m.take (64 * n) := by
  induction n with
  | zero => intro m; rfl
  | succ n ih =>
    intro m
    rw [cutBlocks, List.flatten_cons, ih, show 64 * (n + 1) = 64 + 64 * n by omega, List.take_add]

/-- Every block cut from enough bytes has 64 of them. -/
theorem length_of_mem_cutBlocks (n : Nat) : ∀ m : List Byte, 64 * n ≤ m.length →
    ∀ b ∈ cutBlocks n m, b.length = 64 := by
  induction n with
  | zero => intro m _ b hb; simp [cutBlocks] at hb
  | succ n ih =>
    intro m h b hb
    rcases List.mem_cons.1 hb with rfl | hb
    · simp; omega
    · exact ih _ (by simp; omega) b hb

/-- The chain over more blocks goes on from the chain over the first ones (R79). -/
theorem chain_append (xs ys : List (List Byte)) : chain (xs ++ ys) = ys.foldl compress (chain xs) := by
  simp [chain]

@[simp] theorem chain_nil : chain [] = iv := rfl

@[simp] theorem length_hashMessage (m : List Byte) : (hashMessage m).length = 32 := length_serialize _

/-- The zero bytes of R90 are those of R85. -/
theorem messageZeros_eq (len : Nat) : messageZeros len = padZeros (len % 64) := by
  unfold messageZeros padZeros
  split <;> omega

/-- A padded message is a whole number of blocks (R90). -/
theorem length_paddedMessage (m : List Byte) :
    (paddedMessage m).length = 64 * ((m.length + 8) / 64 + 1) := by
  have hz := padZeros_cases (m.length % 64) (by omega)
  simp only [paddedMessage, List.length_append, List.length_singleton, length_zeros, length_be64, messageZeros_eq]
  omega

/-- The bit length of R85 as a number: `8 * LEN` never wraps (R17). -/
theorem toNat_bitLength (len : BitVec 61) : (bitLength len).toNat = 8 * len.toNat := by
  have := len.isLt
  simp only [bitLength, BitVec.toNat_shiftLeft, BitVec.toNat_setWidth, Nat.shiftLeft_eq]
  omega

/-- One or two compressions of the padded tail are the chain over its blocks (R86). -/
theorem compressTail_eq_foldl (h : Vector Word 8) (p : List Byte) (hp : p.length = 64 ∨ p.length = 128) :
    compressTail h p = (cutBlocks (p.length / 64) p).foldl compress h := by
  rcases hp with hp | hp
  · rw [compressTail_one h hp, hp]
    simp [cutBlocks, List.take_of_length_le (Nat.le_of_eq hp)]
  · rw [compressTail_two h hp, hp]
    simp [cutBlocks, List.take_of_length_le (l := p.drop 64) (i := 64) (by simp; omega)]

/-- The padded message is the message's whole blocks, then the padded tail of the hash state that holds the
message (R85, R90). -/
theorem paddedMessage_eq {s : State} {m : List Byte} (h : Absorbs s m) :
    paddedMessage m = m.take (64 * (m.length / 64)) ++ pad s := by
  have hb : bitLength s.len = BitVec.ofNat 64 (8 * m.length) := by
    apply BitVec.eq_of_toNat_eq
    have := s.len.isLt
    rw [toNat_bitLength, h.len, BitVec.toNat_ofNat, Nat.mod_eq_of_lt (by have := h.len; omega)]
  rw [pad, h.buf, hb, h.bufLen, paddedMessage, messageZeros_eq]
  simp only [← List.append_assoc, List.take_append_drop]

/-- The padded tail has one block or two (R85). -/
theorem length_pad_cases (s : State) : (pad s).length = 64 ∨ (pad s).length = 128 := by
  rw [length_pad]
  rcases padZeros_cases s.bufLen.toNat s.bufLen.isLt with h | h
  · exact .inl h.2
  · exact .inr h.2

end Sys2Proof.Machine
end

