-- ==== Sys2Proof/Laws/PerInstr.lean ====
section
/-! SUPPORT. The per-instruction family `Row`: the word of every well-formed command selects that command's row of the
opcode map, `(w AND mask) = match` (R53). One lemma per constructor. -/

namespace Sys2Proof.Laws.Row

/-- The word of the command, where it has one, selects the command's row (R53). -/
def Statement (i : Sys2Proof.Instr) : Prop :=
  i.wellFormed = true → Sys2Proof.encode i &&& Sys2Proof.rowMask i = Sys2Proof.rowMatch i

theorem nop : Statement .nop := fun _ => by decide

theorem init : Statement .init := fun _ => by decide

theorem absorb (b : Sys2Proof.Byte) : Statement (.absorb b) := fun _ => by revert b; decide +kernel

theorem sep : Statement .sep := fun _ => by decide

theorem final : Statement .final := fun _ => by decide

theorem rehash : Statement .rehash := fun _ => by decide

theorem iter : Statement .iter := fun _ => by decide

theorem derive : Statement .derive := fun _ => by decide

theorem encode : Statement .encode := fun _ => by decide

theorem gen : Statement .gen := fun _ => by decide

theorem rddig (i : Nat) : Statement (.rddig i) := by
  have key : ∀ b : Sys2Proof.Byte, (0x0A00#16 ||| b.setWidth 16) &&& 0xFF00#16 = 0x0A00#16 := by decide +kernel
  exact fun _ => key (BitVec.ofNat 8 i)

theorem rdpw (i : Nat) : Statement (.rdpw i) := by
  have key : ∀ b : Sys2Proof.Byte, (0x0B00#16 ||| b.setWidth 16) &&& 0xFF00#16 = 0x0B00#16 := by decide +kernel
  exact fun _ => key (BitVec.ofNat 8 i)

theorem rdst : Statement .rdst := fun _ => by decide

end Sys2Proof.Laws.Row
end

