-- ==== Sys2Proof/Laws/Step.lean ====
section
/-! SUPPORT. What a step can do, said once (R59): wait, run a word, or reset; and that what the host presents later plays
no part in what a command does. -/

namespace Sys2Proof.Machine

theorem step_waits {s : State} (h : s.port = []) : step s = .next s := by simp [step, takeEvent_nil h]

theorem step_command {s : State} {w : CmdWord} {rest : List PortEvent} (h : s.port = .command w :: rest) :
    step s = runWord w { s with port := rest } := by simp [step, takeEvent_cons h, runEvent]

theorem step_reset {s : State} {rest : List PortEvent} (h : s.port = .reset :: rest) :
    step s = .next (applyReset { s with port := rest }) := by simp [step, takeEvent_cons h, runEvent]

theorem runWord_decoded {w : CmdWord} {i : Instr} (h : decode w = .ok i) (s : State) : runWord w s = exec i s := by
  simp [runWord, h]

/-- An illegal word in an unfaulted state (R119 line 2, R124). -/
theorem runWord_illegal_fault {w : CmdWord} (h : IllegalWord w) {s : State} (he : s.err = false) :
    runWord w s = .next (faulted 1 s) := by
  obtain ⟨e, hd⟩ := h
  simp only [runWord, hd, execIllegal]
  rw [runCommand_fault (c := .illegal) he rfl]
  rfl

/-- An illegal word in the faulted state (R119 line 1, R121). -/
theorem runWord_illegal_refused {w : CmdWord} (h : IllegalWord w) {s : State} (he : s.err = true) :
    runWord w s = .next (refused s) := by
  obtain ⟨e, hd⟩ := h
  simp only [runWord, hd, execIllegal]
  rw [runCommand_refused he]
  rfl

/-- Every word decodes to a command or is illegal (R56). -/
theorem word_cases (w : CmdWord) : (∃ i, decode w = .ok i) ∨ IllegalWord w := by
  rcases h : decode w with e | i
  · exact .inr ⟨e, h⟩
  · exact .inl ⟨i, rfl⟩

/-- Everything a step can do: nothing while the host waits, `rst`, a decoded command, or an illegal word. -/
theorem step_cases {s t : State} (h : step s = .next t) :
    (s.port = [] ∧ t = s) ∨
    (∃ rest, s.port = .reset :: rest ∧ t = applyReset { s with port := rest }) ∨
    (∃ w rest i, s.port = .command w :: rest ∧ decode w = .ok i ∧ exec i { s with port := rest } = .next t) ∨
    (∃ w rest, s.port = .command w :: rest ∧ IllegalWord w ∧
      ((s.err = false ∧ t = faulted 1 { s with port := rest }) ∨
       (s.err = true ∧ t = refused { s with port := rest }))) := by
  rcases hp : s.port with _ | ⟨e, rest⟩
  · rw [step_waits hp] at h
    exact .inl ⟨rfl, by cases h; rfl⟩
  · rcases e with w | _
    · rw [step_command hp] at h
      rcases word_cases w with ⟨i, hd⟩ | hi
      · rw [runWord_decoded hd] at h
        exact .inr (.inr (.inl ⟨w, rest, i, rfl, hd, h⟩))
      · refine .inr (.inr (.inr ⟨w, rest, rfl, hi, ?_⟩))
        rcases he : s.err with _ | _
        · have hf : runWord w { s with port := rest } = .next (faulted 1 { s with port := rest }) :=
            runWord_illegal_fault hi he
          rw [hf] at h
          exact .inl ⟨rfl, by cases h; rw [he]⟩
        · have hf : runWord w { s with port := rest } = .next (refused { s with port := rest }) :=
            runWord_illegal_refused hi he
          rw [hf] at h
          exact .inr ⟨rfl, by cases h; rw [he]⟩
    · rw [step_reset hp] at h
      exact .inr (.inl ⟨rest, rfl, by cases h; rfl⟩)

/-! ### What the host presents later -/

theorem appendByte_withPort (b : Byte) (s : State) (p : List PortEvent) :
    appendByte b { s with port := p } = { appendByte b s with port := p } := by
  unfold appendByte; split <;> rfl

theorem rehashTimes_withPort (n : Nat) (p : List PortEvent) : ∀ s : State,
    rehashTimes n { s with port := p } = { rehashTimes n s with port := p } := by
  induction n with
  | zero => intro s; rfl
  | succ n ih => intro s; rw [rehashTimes, rehashTimes, ← ih]; rfl

theorem iterBody_withPort (s : State) (p : List PortEvent) :
    iterBody { s with port := p } = { iterBody s with port := p } := by
  rw [iterBody_eq, iterBody_eq, rehashTimes_withPort]

theorem deriveBody_withPort (s : State) (p : List PortEvent) :
    deriveBody { s with port := p } = { deriveBody s with port := p } := by
  rw [deriveBody_eq, deriveBody_eq, ← rehashTimes_withPort]
  rfl

theorem performOf_withPort (i : Instr) (s : State) (p : List PortEvent) :
    performOf i { s with port := p } = { performOf i s with port := p } := by
  cases i with
  | absorb b => simp only [performOf, bodyOf, appendByte_withPort]; rfl
  | sep => simp only [performOf, bodyOf, appendByte_withPort]; rfl
  | iter => simp only [performOf, bodyOf, iterBody_withPort]; rfl
  | derive => simp only [performOf, bodyOf, deriveBody_withPort]; rfl
  | gen => simp only [performOf, bodyOf, genBody, deriveBody_withPort]; rfl
  | nop | init | final | rehash | encode | rddig _ | rdpw _ | rdst => rfl

theorem checkOf_withPort (i : Instr) (s : State) (p : List PortEvent) :
    checkOf i { s with port := p } = checkOf i s := by cases i <;> rfl

/-- A command does the same whatever the host presents after it. -/
theorem exec_withPort {i : Instr} {s t : State} (h : exec i s = .next t) (p : List PortEvent) :
    exec i { s with port := p } = .next { t with port := p } := by
  rcases exec_cases h with ⟨he, hi, rfl⟩ | ⟨he, c, hc, rfl⟩ | ⟨he, hc, rfl⟩
  · exact exec_refused hi he
  · exact exec_fault he ((checkOf_withPort i s p).trans hc)
  · rcases he with he | rfl
    · rw [← performOf_withPort]
      exact exec_performed he ((checkOf_withPort i s p).trans hc)
    · rfl

/-- No command writes what the host presents, nor the open parameter. -/
theorem exec_port {i : Instr} {s t : State} (h : exec i s = .next t) :
    t.port = s.port ∧ t.config = s.config := by
  rcases exec_cases h with ⟨-, -, rfl⟩ | ⟨-, c, -, rfl⟩ | ⟨-, -, rfl⟩
  · simp
  · simp
  · cases i <;> simp [performOf, bodyOf]

end Sys2Proof.Machine
end

