-- ==== Sys2Proof/Laws/Response.lean ====
section
/-! SUPPORT. The response port is an output: no command reads it, and what stood there before plays no part in what a
command does (R54). -/

namespace Sys2Proof.Machine

theorem appendByte_withResp (b : Byte) (s : State) (r : Option RespWord) :
    appendByte b { s with resp := r } = { appendByte b s with resp := r } := by
  unfold appendByte; split <;> rfl

theorem rehashBody_withResp (s : State) (r : Option RespWord) :
    rehashBody { s with resp := r } = { rehashBody s with resp := r } := rfl

theorem rehashTimes_withResp (n : Nat) (r : Option RespWord) : ∀ s : State,
    rehashTimes n { s with resp := r } = { rehashTimes n s with resp := r } := by
  induction n with
  | zero => intro s; rfl
  | succ n ih => intro s; rw [rehashTimes, rehashTimes, ← ih, rehashBody_withResp]

theorem iterBody_withResp (s : State) (r : Option RespWord) :
    iterBody { s with resp := r } = { iterBody s with resp := r } := by
  rw [iterBody_eq, iterBody_eq, rehashTimes_withResp]

theorem deriveBody_withResp (s : State) (r : Option RespWord) :
    deriveBody { s with resp := r } = { deriveBody s with resp := r } := by
  rw [deriveBody_eq, deriveBody_eq, ← rehashTimes_withResp]
  rfl

theorem bodyOf_withResp (i : Instr) (s : State) (r : Option RespWord) :
    bodyOf i { s with resp := r } = { bodyOf i s with resp := r } := by
  cases i with
  | absorb b => exact appendByte_withResp b s r
  | sep => exact appendByte_withResp sepByte s r
  | iter => exact iterBody_withResp s r
  | derive => exact deriveBody_withResp s r
  | gen => simp only [bodyOf, genBody, deriveBody_withResp]; rfl
  | nop | init | final | rehash | encode | rddig _ | rdpw _ | rdst => rfl

/-- Of two responses the second stands. -/
@[simp] theorem respond_respond (e e' : BitVec 4) (d d' : Byte) (s : State) :
    respond e d (respond e' d' s) = respond e d s := rfl

/-- A body after an earlier response, with a response of its own: the earlier one is gone. -/
@[simp] theorem respond_bodyOf_respond (i : Instr) (e e' : BitVec 4) (d d' : Byte) (s : State) :
    respond e d (bodyOf i (respond e' d' s)) = respond e d (bodyOf i s) := by
  rw [respond, respond, bodyOf_withResp, respond]

theorem dataOf_respond (i : Instr) (e : BitVec 4) (d : Byte) (s : State) :
    dataOf i (respond e d s) = dataOf i s := by cases i <;> rfl

/-- The checks do not look at the response. -/
@[simp] theorem checkOf_respond (i : Instr) (e : BitVec 4) (d : Byte) (s : State) :
    checkOf i (respond e d s) = checkOf i s := by cases i <;> rfl

end Sys2Proof.Machine
end

