-- ==== Sys2Proof/Tests/Slice0.lean ====
section
/-! SUPPORT. The model's own tests. Expected values come from spec/95_test_vectors.md (V1.1 to V10.26) and the encoding
tables of spec/30_encoding.md. At the end, one witness for the hypotheses of each statement of
Sys2Proof/Certificates/Slice0/Obligations.lean. -/

namespace Sys2Proof.Tests

open Sys2Proof Sys2Proof.Machine

/-! ### Helpers -/

/-- The next state of an outcome, where there is one. -/
def nextOf : Host.Outcome State Fault Refusal → Option State
  | .next s => some s
  | .fault _ => none
  | .refused _ => none

/-- The response after one command, where the step has one. -/
def respAfter (i : Instr) (s : State) : Option RespWord := (nextOf (exec i s)).bind State.resp

/-- `STATUS` after one command. -/
def statusAfter (i : Instr) (s : State) : Option Byte := (nextOf (exec i s)).map statusWord

/-- The eight words after one command. -/
def wordsAfter (i : Instr) (s : State) : Option (List Word) := (nextOf (exec i s)).map (fun t => t.h.toList)

/-- A 32-byte space from its bytes, zero past the end of the list. -/
def bytes32 (l : List Byte) : Vector Byte 32 := Vector.ofFn (fun i => l.getD i.val 0)

/-- A state that has absorbed the bytes `l`, fewer than 64, since reset. -/
def absorbed (l : List Byte) : State :=
  { State.reset with
    len := BitVec.ofNat 61 l.length
    bufLen := BitVec.ofNat 6 l.length
    buf := Vector.ofFn (fun i => l.getD i.val 0) }

/-- A finalized state with the digest of the words `h`. -/
def finalized (h : Vector Word 8) : State :=
  { State.reset with h := h, digest := bytes32 (serialize h), fin := true, dv := true }

/-- The same with its password. -/
def encoded (h : Vector Word 8) : State :=
  { finalized h with pw := bytes32 (encodeDigest (serialize h)), pv := true }

/-- `Hash("abc")` (V5.2). -/
def hashAbc : Vector Word 8 :=
  #v[0xba7816bf, 0x8f01cfea, 0x414140de, 0x5dae2223, 0xb00361a3, 0x96177a9c, 0xb410ff61, 0xf20015ad]

/-- The constructed state of V10.23: `LEN = MAXLEN`. -/
def fullState : State := { State.reset with len := 2305843009213693951, bufLen := 63 }

/-- A state in the faulted state, with `ECODE = 2`. -/
def faultedState : State := { State.reset with err := true, ecode := 2 }

/-- A state whose parameter is the smallest legal `MAXLEN`. -/
def smallest : State := { State.reset with config := ⟨55⟩ }

/-! ### WellFormed: what it accepts and refuses -/

theorem test_wellFormed_index : (Instr.rddig 255).wellFormed = true ∧ (Instr.rdpw 255).wellFormed = true := by decide
theorem test_illFormed_rddig : (Instr.rddig 256).wellFormed = false := by decide
theorem test_illFormed_rdpw : (Instr.rdpw 256).wellFormed = false := by decide

/-! ### Decoding: each command's word, bit by bit, op in bits 15:8, imm in 7:0 (R50, R53) -/

theorem test_decode_nop : decode 0b0000000000000000#16 = .ok .nop := by decide
theorem test_decode_init : decode 0b0000000100000000#16 = .ok .init := by decide
theorem test_decode_absorb : decode 0b0000001001111100#16 = .ok (.absorb 0x7C) := by decide
theorem test_decode_sep : decode 0b0000001100000000#16 = .ok .sep := by decide
theorem test_decode_final : decode 0b0000010000000000#16 = .ok .final := by decide
theorem test_decode_rehash : decode 0b0000010100000000#16 = .ok .rehash := by decide
theorem test_decode_iter : decode 0b0000011000000000#16 = .ok .iter := by decide
theorem test_decode_derive : decode 0b0000011100000000#16 = .ok .derive := by decide
theorem test_decode_encode : decode 0b0000100000000000#16 = .ok .encode := by decide
theorem test_decode_gen : decode 0b0000100100000000#16 = .ok .gen := by decide
theorem test_decode_rddig : decode 0b0000101000100000#16 = .ok (.rddig 32) := by decide
theorem test_decode_rdpw : decode 0b0000101100011111#16 = .ok (.rdpw 31) := by decide
theorem test_decode_rdst : decode 0b0000110000000000#16 = .ok .rdst := by decide

/-- The two cases of R55, by name. -/
theorem test_decode_illegal : decode 0x0D00 = .error (.reservedOpcode 0x0D) ∧
    decode 0x0301 = .error (.operandNotZero 0x03 0x01) := by decide

theorem test_decodeTableWord : decodeTableWord 16 0x02FF = some (.absorb 0xFF) ∧ decodeTableWord 16 0x0C01 = none := by
  decide

/-- A placed word is the next step's command. -/
theorem test_withFetchWord : (nextOf (step (State.reset.withFetchWord 16 0x0C00))).bind State.resp = some 0x000 := by
  decide

/-! ### Word functions, compression, padding -/

/-- V1.10. -/
theorem test_ssig1 : ssig1 0x61626380 = 0x7DA86405 := by decide

/-- V3.4. -/
theorem test_compress_ones : (compress (Vector.replicate 8 0xFFFFFFFF) (List.replicate 64 0xFF)).toList =
    [0x0598127a, 0xaf11706e, 0x77401fff, 0xd730c549, 0x0b84c867, 0xa98c6ca3, 0xd7f3c0f9, 0x06a78b79] := by
  decide +kernel

/-- V4.4: 55 bytes fit in one block. -/
theorem test_pad_55 : pad (absorbed (List.replicate 55 0x61)) =
    List.replicate 55 0x61 ++ [0x80] ++ [0, 0, 0, 0, 0, 0, 0x01, 0xb8] := by decide

/-- V4.5: 56 bytes take two. -/
theorem test_pad_56 : pad (absorbed (List.replicate 56 0x61)) =
    List.replicate 56 0x61 ++ [0x80] ++ List.replicate 63 0 ++ [0, 0, 0, 0, 0, 0, 0x01, 0xc0] := by decide

/-- V4.11: the largest length field. -/
theorem test_pad_maxlen : (pad fullState).drop 120 = [0xff, 0xff, 0xff, 0xff, 0xff, 0xff, 0xff, 0xf8] := by
  decide

/-! ### The hash state machine -/

/-- V9.8: `INIT` keeps the digest and the password. -/
theorem test_init_keeps : statusAfter .init (encoded hashAbc) = some 0x06 := by decide

/-- V10: `INIT` does not clear a fault. -/
theorem test_init_refused : respAfter .init faultedState = some 0x200 := by decide

/-- P6, V3.5: the 64th byte is compressed. -/
theorem test_absorb_64th : wordsAfter (.absorb 0x61) (absorbed (List.replicate 63 0x61)) =
    some [0xdf5bb81c, 0xe81e0626, 0xfb45a894, 0x4fd40f31, 0xb25e6816, 0xd6d499c1, 0xab904929, 0x00635e66] := by
  decide +kernel

/-- V10.23. -/
theorem test_absorb_length : respAfter (.absorb 0x61) fullState = some 0x600 ∧
    statusAfter (.absorb 0x61) fullState = some 0x68 := by decide

/-- The separator is the byte 0x7C (R84). -/
theorem test_sep_byte : (nextOf (exec .sep (absorbed [0x61]))).map (fun t => t.buf[1]) = some 0x7C := by decide

/-- V10.8. -/
theorem test_sep_phase : respAfter .sep (finalized hashAbc) = some 0x200 ∧
    statusAfter .sep (finalized hashAbc) = some 0x2B := by decide

/-- V5.2. -/
theorem test_final_abc : (nextOf (exec .final (absorbed [0x61, 0x62, 0x63]))).map State.digest =
    some (bytes32 (serialize hashAbc)) := by decide +kernel

/-- V5.9: two blocks. -/
theorem test_final_56 : wordsAfter .final (absorbed (List.replicate 56 0x61)) =
    some [0xb35439a4, 0xac6f0948, 0xb6d6f9e3, 0xc6af0f5f, 0x590ce20f, 0x1bde7090, 0xef797068, 0x6ec6738a] := by
  decide +kernel

/-! ### The iterated derivation -/

/-- V6.1. -/
theorem test_rehash_abc : wordsAfter .rehash (finalized hashAbc) =
    some [0x4f8b42c2, 0x2dd3729b, 0x519ba6f6, 0x8d2da7cc, 0x5b2d606d, 0x05daed5a, 0xd5128cc0, 0x3e6c6358] := by
  decide +kernel

/-- V10.12: a digest exists, but a message is open. -/
theorem test_rehash_phase : statusAfter .rehash { finalized hashAbc with fin := false } = some 0x2A := by
  decide

/-- V6.10: two rehashes take `d_0` of ("a", "b") to `d_2`. -/
theorem test_two_rehashes : (rehashTimes 2 (finalized #v[0x0eab8a0a, 0x3380abf4, 0xc7d1fb0b, 0x43b66aaf, 0xbb64a4b9,
    0x53e4eb2d, 0xccca5794, 0x61912d0c])).h.toList =
    [0xa4602bb6, 0xf7fca9e7, 0xd3bdab0c, 0x21b4b58c, 0x87e45652, 0x780edd3a, 0xa2ac78a2, 0x54df9471] := by
  decide +kernel

/-- V10.11. -/
theorem test_iter_phase : statusAfter .iter State.reset = some 0x28 := by decide

/-- V6.11: `DERIVE` alone from reset. -/
theorem test_derive_status : ∃ t, exec .derive State.reset = .next t ∧ statusWord t = 0x03 :=
  ⟨_, exec_performed rfl rfl, by simp [statusWord, performOf, bodyOf, State.reset]⟩

/-- V10.9. -/
theorem test_derive_phase : statusAfter .derive (finalized hashAbc) = some 0x2B := by decide

/-! ### The output encoder -/

/-- V7.7. -/
theorem test_encode_abc : (nextOf (exec .encode (finalized hashAbc))).map (fun t => t.pw.toList.take 8) =
    some [0x37, 0x35, 0x77, 0x3D, 0x70, 0x62, 0x70, 0x51] := by decide +kernel

/-- V7.4: the top two bits are discarded. -/
theorem test_encode_high : encodeDigest [0xE0, 0xF3, 0xF4, 0xFC, 0xFD, 0xFE, 0xFF] =
    [0x47, 0x5A, 0x31, 0x39, 0x30, 0x2D, 0x3D] := by decide

/-- V8.14: `GEN` alone from reset. -/
theorem test_gen_status : ∃ t, exec .gen State.reset = .next t ∧ statusWord t = 0x07 :=
  ⟨_, exec_performed rfl rfl, by simp [statusWord, performOf, bodyOf, genBody, State.reset]⟩

/-- V10.9. -/
theorem test_gen_phase : respAfter .gen (finalized hashAbc) = some 0x200 := by decide

/-! ### Read-out and system commands -/

/-- V9.10 and the refusal of `NOP` (sticky table, line 6). -/
theorem test_nop : respAfter .nop State.reset = some 0x000 ∧ respAfter .nop faultedState = some 0x200 := by
  decide

/-- V9.3, V9.4. -/
theorem test_rddig : respAfter (.rddig 0) (finalized hashAbc) = some 0x0BA ∧
    respAfter (.rddig 31) (finalized hashAbc) = some 0x0AD := by decide

/-- V10.15, V10.20. -/
theorem test_rddig_faults : respAfter (.rddig 40) State.reset = some 0x300 ∧
    respAfter (.rddig 32) (finalized hashAbc) = some 0x500 := by decide

/-- V9.6. -/
theorem test_rdpw : respAfter (.rdpw 0) (encoded hashAbc) = some 0x037 ∧
    respAfter (.rdpw 3) (encoded hashAbc) = some 0x03D := by decide

/-- V10.18, V10.22. -/
theorem test_rdpw_faults : respAfter (.rdpw 40) (finalized hashAbc) = some 0x400 ∧
    respAfter (.rdpw 32) (encoded hashAbc) = some 0x500 := by decide

/-- V9.5 and the sticky table, line 4. -/
theorem test_rdst : respAfter .rdst (encoded hashAbc) = some 0x007 ∧
    respAfter .rdst { finalized hashAbc with err := true, ecode := 2 } = some 0x02B := by decide

/-- V10.26: the phase comes before the length. -/
theorem test_phase_before_length : respAfter (.absorb 0x61) { fullState with fin := true, dv := true } = some 0x200 := by
  decide

/-- V10.3: an illegal word, and the sticky table, line 5: refused with the old code. -/
theorem test_illegal_word : (nextOf (runWord 0x0401 State.reset)).map statusWord = some 0x18 ∧
    (nextOf (runWord 0x0C01 faultedState)).map statusWord = some 0x28 := by decide

/-! ### Witnesses: each set of hypotheses of the statements is met by a concrete state -/

theorem witness_decodeInvertsEncode : (Instr.rddig 255).wellFormed = true ∧ Instr.nop.wellFormed = true := by decide

theorem witness_encodeInvertsDecode : decode 0x0AFF = .ok (.rddig 255) := by decide

theorem witness_opcodeMap_selects : ∃ r ∈ opcodeMap, r.Selects 0x027C :=
  ⟨⟨.absorb, 0x0200, 0xFF00⟩, by simp [opcodeMap], by decide⟩

theorem witness_opcodeMap_none : ∀ r ∈ opcodeMap, ¬ r.Selects 0x0D00 := by
  intro r hr
  simp only [opcodeMap, List.mem_cons, List.not_mem_nil, or_false] at hr
  rcases hr with rfl | rfl | rfl | rfl | rfl | rfl | rfl | rfl | rfl | rfl | rfl | rfl | rfl <;> decide

theorem witness_illegal : IllegalWord 0x0D00 ∧ IllegalWord 0x00FF ∧ State.reset.err = false :=
  ⟨⟨.reservedOpcode 0x0D, by decide⟩, ⟨.operandNotZero 0x00 0xFF, by decide⟩, rfl⟩

theorem witness_index : (encoded hashAbc).err = false ∧ (encoded hashAbc).dv = true ∧ (encoded hashAbc).pv = true ∧
    31 < (32#8).toNat ∧ 31 < (255#8).toNat := ⟨rfl, rfl, rfl, by decide, by decide⟩

theorem witness_formatZ_operand : (0x01#8 ≠ 0x00#8) ∧ (0xFF#8 ≠ 0x00#8) := by decide

theorem witness_step_command : ({ State.reset with port := [.command 0x0400] } : State).port = .command 0x0400 :: [] ∧
    decode 0x0400 = .ok .final := ⟨rfl, by decide⟩

theorem witness_step_illegal : ({ State.reset with port := [.command 0x00FF] } : State).port = .command 0x00FF :: [] ∧
    ({ faultedState with port := [.command 0x00FF] } : State).err = true := ⟨rfl, rfl⟩

theorem witness_waits : State.reset.port = [] := rfl

theorem witness_rst : ({ faultedState with port := [.reset, .command 0x0C00] } : State).port =
    .reset :: [.command 0x0C00] := rfl

theorem witness_portRuns : ∀ i ∈ [Instr.init, .absorb 0x61, .final, .rddig 31], i.wellFormed = true := by decide

theorem witness_block : abcBlock.length = 64 ∧ (zeros 64).length = 64 := by decide

theorem witness_init_twice : State.reset.err = false ∧
    exec .init State.reset = .next (respond 0#4 0x00#8 (initHash State.reset)) := ⟨rfl, exec_performed rfl rfl⟩

/-- `ABSORB` and `SEP`: the appending clause below the block boundary, at it, and just below `MAXLEN`; the phase
clause; the length clause. -/
theorem witness_append : (absorbed (List.replicate 62 0x61)).bufLen ≠ 63 ∧ (absorbed (List.replicate 63 0x61)).bufLen = 63 ∧
    (absorbed (List.replicate 63 0x61)).err = false ∧ (absorbed (List.replicate 63 0x61)).fin = false ∧
    (absorbed (List.replicate 63 0x61)).len ≠ Config.default.maxLen ∧
    (2305843009213693950#61 ≠ Config.default.maxLen) := by decide
theorem witness_append_phase : (finalized hashAbc).err = false ∧ (finalized hashAbc).fin = true := ⟨rfl, rfl⟩
theorem witness_append_length : fullState.err = false ∧ fullState.fin = false ∧
    fullState.len = fullState.config.maxLen := ⟨rfl, rfl, rfl⟩

theorem witness_pad_zero : (absorbed [0x61]).bufLen.toNat < 5 ∧ 5 + 8 < (pad (absorbed [0x61])).length ∧
    (absorbed (List.replicate 63 0x61)).bufLen.toNat < 64 ∧ 64 + 8 < (pad (absorbed (List.replicate 63 0x61))).length := by
  decide +kernel
theorem witness_pad_abc : (absorbed [0x61, 0x62, 0x63]).bufLen = 3 ∧ (absorbed [0x61, 0x62, 0x63]).len = 3 ∧
    memRead (absorbed [0x61, 0x62, 0x63]).buf 0 3 = [0x61, 0x62, 0x63] := by decide

/-- `FINAL`, `DERIVE`, `GEN`: both clauses, with one block (55) and with two (56). -/
theorem witness_finalize : (absorbed (List.replicate 55 0x61)).err = false ∧
    (absorbed (List.replicate 55 0x61)).fin = false ∧ (absorbed (List.replicate 55 0x61)).bufLen.toNat ≤ 55 ∧
    56 ≤ (absorbed (List.replicate 56 0x61)).bufLen.toNat ∧ (finalized hashAbc).fin = true := by decide

theorem witness_writesDigest : ∃ t, Instr.final.writesDigest = true ∧ exec .final State.reset = .next t ∧ t.err = false :=
  ⟨_, rfl, exec_performed rfl rfl, rfl⟩
theorem witness_serialize : hashAbc[0] = 0xBA7816BF := rfl

/-- Messages of 0, 63 and 64 bytes, absorbed. -/
theorem witness_absorbs_empty : Absorbs State.reset [] ∧ State.reset.err = false ∧
    ([] : List Byte).length < State.reset.config.maxLen.toNat := ⟨⟨rfl, rfl, rfl, rfl, rfl⟩, rfl, by decide⟩
theorem witness_absorbs_63 : Absorbs (absorbed (List.replicate 63 0x61)) (List.replicate 63 0x61) :=
  ⟨rfl, by decide, by decide, rfl, by decide⟩
theorem witness_absorbs_64 : Absorbs { State.reset with h := chain [List.replicate 64 0x61], len := 64 }
    (List.replicate 64 0x61) := ⟨rfl, by decide, by decide, rfl, by decide⟩

/-- A message that fills `MAXLEN` exactly. -/
theorem witness_message : smallest.err = false ∧ smallest.fin = false ∧
    smallest.len.toNat + (List.replicate 55 0x61#8).length ≤ smallest.config.maxLen.toNat ∧
    (List.replicate 55 0x61#8).length ≤ smallest.config.maxLen.toNat := by decide

theorem witness_rehash : (finalized hashAbc).err = false ∧ (finalized hashAbc).fin = true ∧
    ({ finalized hashAbc with config := ⟨55⟩ } : State).config.Legal ∧ State.reset.fin = false :=
  ⟨rfl, rfl, by decide, rfl⟩

theorem witness_derivepw : smallest.err = false ∧ smallest.ecode = 0 ∧
    (List.replicate 41 0x61#8).length + 1 + (List.replicate 13 0x62#8).length ≤ smallest.config.maxLen.toNat := by
  decide

/-- The pairs of V8.10 and V8.11. -/
theorem witness_separator : [0x61#8, 0x7C, 0x62] ++ [0x7C] ++ [0x63] = [0x61#8] ++ [0x7C] ++ [0x62, 0x7C, 0x63] := by
  decide

theorem witness_alphabet : [0x00#8, 0xFF#8][1]? = some 0xFF ∧ (25 : Nat) ≤ 25 ∧ (26 : Nat) ≤ 51 ∧ (60 : Nat) ≤ 60 := by
  decide

theorem witness_encode : (finalized hashAbc).err = false ∧ (finalized hashAbc).dv = true ∧ State.reset.dv = false :=
  ⟨rfl, rfl, rfl⟩

/-- The invariants of R28 in a state that has absorbed a byte. -/
theorem witness_inv_absorbed : Inv (absorbed [0x61]) ∧ (absorbed [0x61]).err = false ∧
    (List.replicate 41 0x61#8).length + 1 + (List.replicate 13 0x62#8).length ≤ (absorbed [0x61]).config.maxLen.toNat :=
  ⟨{ config := by decide
     bufLen := by decide
     len := by decide
     finDv := by decide
     pvEncoded := fun h => nomatch h
     noError := by decide
     error := by decide
     finDigest := fun h => nomatch h
     absorbing := fun _ => ⟨[0x61], rfl, by decide, by decide, rfl, by decide⟩ }, rfl, by decide⟩

/-- The invariants in a finalized state with a password, and in the faulted state. -/
theorem witness_inv_encoded : Inv (encoded hashAbc) ∧ (encoded hashAbc).pv = true :=
  ⟨{ config := by decide
     bufLen := by decide
     len := by decide
     finDv := fun _ => rfl
     pvEncoded := fun _ => ⟨rfl, by decide⟩
     noError := fun _ => rfl
     error := fun h => nomatch h
     finDigest := fun _ => by decide
     absorbing := fun h => nomatch h }, rfl⟩

theorem witness_step_kept : ∃ t, step { absorbed [0x61] with port := [.command 0x0400] } = .next t :=
  ⟨_, (step_command rfl).trans ((runWord_decoded (i := .final) (by decide) _).trans (exec_performed rfl rfl))⟩

theorem witness_writesPw : ∃ t, Instr.encode.writesPw = true ∧ exec .encode (finalized hashAbc) = .next t ∧
    t.err = false := ⟨_, rfl, exec_performed rfl rfl, rfl⟩

/-- The clauses of the three reads: with a value, without one, and with the indexes 31 and 32. -/
theorem witness_reads : (encoded hashAbc).err = false ∧ (encoded hashAbc).dv = true ∧ (encoded hashAbc).pv = true ∧
    State.reset.dv = false ∧ State.reset.pv = false ∧ (31 : Fin 32).val = 31 ∧ (32 : Nat) ≤ 32 :=
  ⟨rfl, rfl, rfl, rfl, rfl, rfl, le_refl 32⟩

theorem witness_readsOnly : Instr.rdst.readsOnly = true ∧
    (∃ t, exec .rdst State.reset = .next t ∧ t.err = false) ∧
    (∃ t, exec (.rddig 0) State.reset = .next t ∧ t.err = true) :=
  ⟨rfl, ⟨_, rfl, rfl⟩, ⟨_, exec_fault (c := .noDigest) rfl rfl, rfl⟩⟩

/-- Every line of R119 applies somewhere, and none applies somewhere. -/
theorem witness_checks : firstFault .final (finalized hashAbc) = some 2 ∧ firstFault (.rddig 255) State.reset = some 3 ∧
    firstFault (.rdpw 255) (finalized hashAbc) = some 4 ∧ firstFault (.rddig 32) (finalized hashAbc) = some 5 ∧
    firstFault .sep fullState = some 6 ∧ firstFault (.rddig 31) (finalized hashAbc) = none ∧
    faultedState.err = true ∧ Instr.nop ≠ .rdst := by decide

theorem witness_faultEntry : State.reset.err = false ∧ (∃ t, runWord 0x0D00 State.reset = .next t ∧ t.err = true) :=
  ⟨rfl, ⟨_, runWord_illegal_fault ⟨.reservedOpcode 0x0D, by decide⟩ rfl, rfl⟩⟩

theorem witness_onlyRst : ∃ t, faultedState.err = true ∧
    ({ faultedState with port := [.command 0x0100] } : State).port.head? ≠ some .reset ∧
    step { faultedState with port := [.command 0x0100] } = .next t :=
  ⟨_, rfl, by decide,
    (step_command rfl).trans ((runWord_decoded (i := .init) (by decide) _).trans (exec_refused (by decide) rfl))⟩

/-- A source operation with `GEN` that reads the password, and one with `FINAL` that first encodes. -/
theorem witness_sourceOperation : (∀ i ∈ [Instr.absorb 0x61, .sep], i.appends = true) ∧ Instr.gen.finalizes = true ∧
    ReadOutSequence true [.rdpw 31, .rehash, .encode, .rdpw 0, .rddig 31, .rdst] ∧ Instr.final.finalizes = true ∧
    ReadOutSequence false [.rehash, .iter, .encode, .rdpw 31] :=
  ⟨by decide, rfl, by simp [ReadOutSequence, readOutAdmits, passwordKnown], rfl,
    by simp [ReadOutSequence, readOutAdmits, passwordKnown]⟩

theorem witness_writeSets : ∃ t, exec .gen State.reset = .next t ∧ Instr.encode.writesH = false ∧
    Instr.final.writesLen = false := ⟨_, exec_performed rfl rfl, rfl, rfl⟩

/-- Two states that differ in a stale cell of `BUF`, and in `DIGEST` and `PW` without a value. -/
theorem witness_sameValues : ∃ s', (State.reset.fin = true → State.reset.dv = true) ∧
    SameValues State.reset { State.reset with buf := Vector.replicate 64 0xFF, digest := Vector.replicate 32 0xFF,
                                              pw := Vector.replicate 32 0xFF } ∧
    step State.reset = .next s' :=
  ⟨_, (fun h => nomatch h), ⟨rfl, rfl, (fun h => nomatch h), (fun h => nomatch h)⟩, step_waits rfl⟩

end Sys2Proof.Tests
end

section
/-! PROOFS, family 10_state: when the checks of R119 pass, and the write sets of R30. -/

namespace Sys2Proof.Machine

variable {i : Instr} {s t : State}

/-! ### When a check passes (R119 lines 3 to 6) -/

/-- An append is admitted while absorbing and below `MAXLEN` (R125, R128). -/
theorem appendCheck_eq_none : appendCheck s = none ↔ s.fin = false ∧ s.len ≠ s.config.maxLen := by
  unfold appendCheck
  cases s.fin <;> simp

theorem finalizeCheck_eq_none : finalizeCheck s = none ↔ s.fin = false := by
  unfold finalizeCheck
  cases s.fin <;> simp

theorem rehashCheck_eq_none : rehashCheck s = none ↔ s.fin = true := by
  unfold rehashCheck
  cases s.fin <;> simp

theorem digestCheck_eq_none : digestCheck s = none ↔ s.dv = true := by
  unfold digestCheck
  cases s.dv <;> simp

theorem indexCheck_eq_none {n : Nat} : indexCheck n = none ↔ n ≤ 31 := by
  unfold indexCheck lastIndex
  split <;> simp <;> omega

theorem readDigestCheck_eq_none {n : Nat} : readDigestCheck n s = none ↔ s.dv = true ∧ n ≤ 31 := by
  unfold readDigestCheck
  cases s.dv <;> simp [indexCheck_eq_none]

theorem readPasswordCheck_eq_none {n : Nat} : readPasswordCheck n s = none ↔ s.pv = true ∧ n ≤ 31 := by
  unfold readPasswordCheck
  cases s.pv <;> simp [indexCheck_eq_none]

/-! ### What the body of a command leaves unchanged (R30) -/

theorem bodyOf_h (hw : i.writesH = false) (s : State) : (bodyOf i s).h = s.h := by
  cases i with
  | nop | encode | rddig _ | rdpw _ | rdst => rfl
  | init | absorb _ | sep | final | rehash | iter | derive | gen => cases hw

theorem bodyOf_len (hw : i.writesLen = false) (s : State) : (bodyOf i s).len = s.len := by
  cases i with
  | nop | final | encode | rddig _ | rdpw _ | rdst => rfl
  | init | absorb _ | sep | rehash | iter | derive | gen => cases hw

theorem bodyOf_bufLen (hw : i.writesLen = false) (s : State) : (bodyOf i s).bufLen = s.bufLen := by
  cases i with
  | nop | final | encode | rddig _ | rdpw _ | rdst => rfl
  | init | absorb _ | sep | rehash | iter | derive | gen => cases hw

/-- Rehashes leave the upper half of `BUF` as it was, whatever finalization stands before them (R95). -/
theorem deriveBody_buf (s : State) (j : Nat) (h32 : 32 ≤ j) (hj : j < 64) :
    (deriveBody s).buf[j] = s.buf[j] := by
  simp only [deriveBody_eq, rehashTimes_buf _ j h32 hj, finalizeBody_buf]

/-- An append writes `BUF` at `BUFLEN` alone, a rehash at 0..31 alone, and no other command writes it. -/
theorem bodyOf_buf (s : State) (j : Nat) (hj : j < 64) (happend : i.appends = true → j ≠ s.bufLen.toNat)
    (hhead : i.writesBufHead = true → 32 ≤ j) : (bodyOf i s).buf[j] = s.buf[j] := by
  cases i with
  | nop | init | final | encode | rddig _ | rdpw _ | rdst => rfl
  | absorb _ | sep => simp only [bodyOf, appendByte_buf, getElem_storeByte, if_neg (happend rfl)]
  | rehash => exact rehashTimes_buf 1 j (hhead rfl) hj s
  | iter => simp only [bodyOf, iterBody_eq, rehashTimes_buf _ j (hhead rfl) hj]
  | derive => exact deriveBody_buf s j (hhead rfl) hj
  | gen => simp only [bodyOf, genBody_buf, deriveBody_buf s j (hhead rfl) hj]

theorem bodyOf_digest (hw : i.writesDigest = false) (s : State) : (bodyOf i s).digest = s.digest := by
  cases i with
  | nop | init | encode | rddig _ | rdpw _ | rdst => rfl
  | absorb _ | sep => exact appendByte_digest _ s
  | final | rehash | iter | derive | gen => cases hw

theorem bodyOf_dv (hw : i.writesDigest = false) (s : State) : (bodyOf i s).dv = s.dv := by
  cases i with
  | nop | init | encode | rddig _ | rdpw _ | rdst => rfl
  | absorb _ | sep => exact appendByte_dv _ s
  | final | rehash | iter | derive | gen => cases hw

theorem bodyOf_pw (hw : i.writesPw = false) (s : State) : (bodyOf i s).pw = s.pw := by
  cases i with
  | nop | init | final | rehash | rddig _ | rdpw _ | rdst => rfl
  | absorb _ | sep => exact appendByte_pw _ s
  | iter => exact iterBody_pw s
  | derive => exact deriveBody_pw s
  | encode | gen => cases hw

theorem bodyOf_pv (hd : i.writesDigest = false) (hw : i.writesPw = false) (s : State) : (bodyOf i s).pv = s.pv := by
  cases i with
  | nop | init | rddig _ | rdpw _ | rdst => rfl
  | absorb _ | sep => exact appendByte_pv _ s
  | final | rehash | iter | derive | gen => cases hd
  | encode => cases hw

theorem bodyOf_fin (hi : i ≠ .init) (hw : i.writesDigest = false) (s : State) : (bodyOf i s).fin = s.fin := by
  cases i with
  | nop | encode | rddig _ | rdpw _ | rdst => rfl
  | init => exact absurd rfl hi
  | absorb _ | sep => exact appendByte_fin _ s
  | final | rehash | iter | derive | gen => cases hw

/-- No body raises or clears a fault: only fault entry does (R120, R133). -/
@[simp] theorem bodyOf_err (i : Instr) (s : State) : (bodyOf i s).err = s.err := by
  cases i <;> simp [bodyOf]

@[simp] theorem bodyOf_ecode (i : Instr) (s : State) : (bodyOf i s).ecode = s.ecode := by
  cases i <;> simp [bodyOf]

/-! ### What a command leaves unchanged -/

/-- A part of the state that neither a response nor fault entry writes is kept by a command whose body keeps it. -/
theorem exec_keeps {α : Type} (part : State → α) (hrespond : ∀ e d s, part (respond e d s) = part s)
    (hfault : ∀ c s, part (raiseFault c s) = part s) (h : exec i s = .next t) (hbody : part (bodyOf i s) = part s) :
    part t = part s := by
  rcases exec_cases h with ⟨-, -, rfl⟩ | ⟨-, c, -, rfl⟩ | ⟨-, -, rfl⟩
  · exact hrespond ..
  · exact hfault c s
  · exact (hrespond ..).trans hbody

/-- `ERR` and `ECODE` change by fault entry alone, which no faulted state makes (R120, R121). -/
theorem exec_error (h : exec i s = .next t) :
    (t.err = s.err ∧ t.ecode = s.ecode) ∨ (s.err = false ∧ t = faulted t.ecode s) := by
  rcases exec_cases h with ⟨-, -, rfl⟩ | ⟨he, c, -, rfl⟩ | ⟨-, -, rfl⟩
  · exact .inl ⟨rfl, rfl⟩
  · exact .inr ⟨he, raiseFault_eq c s⟩
  · exact .inl ⟨bodyOf_err i s, bodyOf_ecode i s⟩

/-- `BUF` after a command: an append writes it at `BUFLEN`, a rehash at 0..31 (R30). -/
theorem exec_buf (h : exec i s = .next t) (j : Fin 64) (hj : t.buf[j] ≠ s.buf[j]) :
    (i.appends = true ∧ j.val = s.bufLen.toNat) ∨ (i.writesBufHead = true ∧ j.val < 32) := by
  by_contra hnot
  rw [not_or, not_and, not_and, Nat.not_lt] at hnot
  obtain ⟨happend, hhead⟩ := hnot
  exact hj (exec_keeps (fun u => u.buf[j]) (fun _ _ _ => rfl) (fun _ _ => rfl) h
    (bodyOf_buf s j j.isLt happend hhead))

/-- Settles O56, from what the body of each command leaves unchanged. -/
theorem writeSets : Obligations.WriteSets := by
  intro i s t h
  obtain ⟨hport, hconfig⟩ := exec_port h
  refine ⟨fun hw => ?_, fun hw => ⟨?_, ?_⟩, exec_buf h, fun hw => ⟨?_, ?_⟩, fun hw => ?_, fun hd hw => ?_,
    fun hi hw => ?_, hconfig, hport, exec_error h⟩
  · exact exec_keeps State.h (fun _ _ _ => rfl) (fun _ _ => rfl) h (bodyOf_h hw s)
  · exact exec_keeps State.len (fun _ _ _ => rfl) (fun _ _ => rfl) h (bodyOf_len hw s)
  · exact exec_keeps State.bufLen (fun _ _ _ => rfl) (fun _ _ => rfl) h (bodyOf_bufLen hw s)
  · exact exec_keeps State.digest (fun _ _ _ => rfl) (fun _ _ => rfl) h (bodyOf_digest hw s)
  · exact exec_keeps State.dv (fun _ _ _ => rfl) (fun _ _ => rfl) h (bodyOf_dv hw s)
  · exact exec_keeps State.pw (fun _ _ _ => rfl) (fun _ _ => rfl) h (bodyOf_pw hw s)
  · exact exec_keeps State.pv (fun _ _ _ => rfl) (fun _ _ => rfl) h (bodyOf_pv hd hw s)
  · exact exec_keeps State.fin (fun _ _ _ => rfl) (fun _ _ => rfl) h (bodyOf_fin hi hw s)

/-- Settles O53: in the faulted state a command is refused or is `RDST`, and an illegal word is refused. -/
theorem onlyRstClearsAFault : Obligations.OnlyRstClearsAFault := by
  intro s t he hnext hstep
  rcases step_cases hstep with ⟨-, rfl⟩ | ⟨rest, hport, -⟩ | ⟨w, rest, i, -, -, hexec⟩ | ⟨w, rest, -, -, hillegal⟩
  · exact ⟨he, rfl⟩
  · exact absurd (by rw [hport]; rfl) hnext
  · rcases exec_error hexec with ⟨herr, hecode⟩ | ⟨hunfaulted, -⟩
    · exact ⟨herr.trans he, hecode⟩
    · exact nomatch he.symm.trans hunfaulted
  · rcases hillegal with ⟨hunfaulted, -⟩ | ⟨-, rfl⟩
    · exact nomatch he.symm.trans hunfaulted
    · exact ⟨he, rfl⟩

end Sys2Proof.Machine
end

section
/-! PROOFS, family 10_state: the message a hash state holds (R28 (g)), and how an append extends it. -/

namespace Sys2Proof.Machine

variable {s t : State} {m : List Byte}

/-! ### The hash state of a message (R79, R81) -/

/-- The empty message is held with nothing counted, nothing buffered and `H = IV` (R80). -/
theorem absorbs_nil (hfin : s.fin = false) (hlen : s.len = 0) (hbufLen : s.bufLen = 0) (hh : s.h = iv) :
    Absorbs s [] where
  fin := hfin
  len := by rw [hlen]; rfl
  bufLen := by rw [hbufLen]; rfl
  h := hh
  buf := by rw [hbufLen]; rfl

/-- Only the registers of the hash state say which message it holds. -/
theorem Absorbs.congr (h : Absorbs s m) (hfin : t.fin = s.fin) (hlen : t.len = s.len) (hbuf : t.buf = s.buf)
    (hbufLen : t.bufLen = s.bufLen) (hh : t.h = s.h) : Absorbs t m where
  fin := hfin.trans h.fin
  len := by rw [hlen, h.len]
  bufLen := by rw [hbufLen, h.bufLen]
  h := hh.trans h.h
  buf := by rw [hbufLen, hbuf, h.buf]

/-- `BUFLEN` counts the bytes modulo 64: its 6 bits wrap at the 64th byte (R83). -/
@[simp] theorem appendByte_bufLen (b : Byte) (s : State) : (appendByte b s).bufLen = s.bufLen + 1 := by
  by_cases h : s.bufLen = 63#6
  · rw [(appendByte_full b h).1, h]; rfl
  · exact (appendByte_partly b h).1

theorem toNat_appendByte_bufLen (b : Byte) (s : State) :
    (appendByte b s).bufLen.toNat = (s.bufLen.toNat + 1) % 64 := by
  rw [appendByte_bufLen, BitVec.toNat_add]; rfl

theorem appendByte_bufLen_cases (b : Byte) (s : State) :
    (appendByte b s).bufLen.toNat = 0 ∨ (appendByte b s).bufLen.toNat = s.bufLen.toNat + 1 := by
  have := s.bufLen.isLt
  rw [toNat_appendByte_bufLen]
  omega

/-- An append writes `H`, `LEN`, `BUF` and `BUFLEN` alone (R83). -/
theorem appendByte_eq (b : Byte) (s : State) : appendByte b s =
    { s with h := (appendByte b s).h, len := s.len + 1, buf := storeByte b s, bufLen := s.bufLen + 1 } := by
  rw [← appendByte_len b s, ← appendByte_buf b s, ← appendByte_bufLen b s]
  unfold appendByte
  split <;> rfl

/-- Below its largest value `LEN` counts without wrapping. -/
theorem toNat_len_add_one (hroom : s.len ≠ s.config.maxLen) (hle : s.len.toNat ≤ s.config.maxLen.toNat) :
    (s.len + 1).toNat = s.len.toNat + 1 ∧ s.len.toNat + 1 ≤ s.config.maxLen.toNat := by
  have hne : s.len.toNat ≠ s.config.maxLen.toNat := fun h => hroom (BitVec.eq_of_toNat_eq h)
  have := s.config.maxLen.isLt
  have hone : (1 : BitVec 61).toNat = 1 := rfl
  rw [BitVec.toNat_add, hone]
  omega

/-- `BUFLEN` after an append counts the extended message modulo 64. -/
theorem Absorbs.bufLen_appendByte (h : Absorbs s m) (b : Byte) :
    (appendByte b s).bufLen.toNat = (m ++ [b]).length % 64 := by
  rw [toNat_appendByte_bufLen, h.bufLen, List.length_append, List.length_singleton]
  omega

/-- `H` after an append is the chain of the full blocks of the extended message: at the 64th byte the buffered bytes
and the new one are its next block (R79, R83). -/
theorem Absorbs.h_appendByte (h : Absorbs s m) (b : Byte) :
    (appendByte b s).h = chain (cutBlocks ((m ++ [b]).length / 64) (m ++ [b])) := by
  have hfirst : cutBlocks (m.length / 64) (m ++ [b]) = cutBlocks (m.length / 64) m :=
    cutBlocks_append _ _ _ (by omega)
  have hbytes := h.bufLen
  by_cases hfull : s.bufLen = 63#6
  · have h63 : s.bufLen.toNat = 63 := by rw [hfull]; rfl
    have hblock : m.drop (64 * (m.length / 64)) ++ [b] = (storeByte b s).toList := by
      rw [← h.buf, ← memRead_storeByte, h63, memRead_all]
    have hlast : cutBlocks 1 ((m ++ [b]).drop (64 * (m.length / 64))) = [(storeByte b s).toList] := by
      rw [List.drop_append_of_le_length (by omega), hblock]
      simp [cutBlocks]
    have hblocks : (m ++ [b]).length / 64 = m.length / 64 + 1 := by
      rw [List.length_append, List.length_singleton]; omega
    rw [(appendByte_full b hfull).2, hblocks, cutBlocks_add, hfirst, hlast, chain_append, ← h.h]
    rfl
  · have h63 : s.bufLen.toNat ≠ 63 := fun heq => hfull (BitVec.eq_of_toNat_eq heq)
    have hblocks : (m ++ [b]).length / 64 = m.length / 64 := by
      rw [List.length_append, List.length_singleton]; omega
    rw [(appendByte_partly b hfull).2, hblocks, hfirst, h.h]

/-- `BUF` after an append holds the remaining bytes of the extended message; none remain at the 64th byte. -/
theorem Absorbs.buf_appendByte (h : Absorbs s m) (b : Byte) :
    memRead (appendByte b s).buf 0 (appendByte b s).bufLen.toNat =
      (m ++ [b]).drop (64 * ((m ++ [b]).length / 64)) := by
  have hbytes := h.bufLen
  have hcount := h.bufLen_appendByte b
  rw [List.length_append, List.length_singleton] at hcount ⊢
  rcases appendByte_bufLen_cases b s with hnone | hmore
  · rw [hnone, List.drop_of_length_le (by simp; omega)]
    rfl
  · have hblocks : (m.length + 1) / 64 = m.length / 64 := by omega
    rw [hmore, appendByte_buf, memRead_storeByte, h.buf, hblocks, List.drop_append_of_le_length (by omega)]

/-- Absorbing a byte extends the message by it, as long as `LEN` does not wrap (R81). -/
theorem Absorbs.appendByte (h : Absorbs s m) (hroom : (s.len + 1).toNat = s.len.toNat + 1) (b : Byte) :
    Absorbs (appendByte b s) (m ++ [b]) where
  fin := (appendByte_fin b s).trans h.fin
  len := by rw [appendByte_len, hroom, h.len, List.length_append, List.length_singleton]
  bufLen := h.bufLen_appendByte b
  h := h.h_appendByte b
  buf := h.buf_appendByte b

/-- Settles O28: a message below `MAXLEN` passes the checks of an append, and its byte extends the message. -/
theorem appendExtendsTheMessage : Obligations.AppendExtendsTheMessage := by
  intro s m he h hshort
  rw [← h.len] at hshort
  have hne : s.len ≠ s.config.maxLen := fun heq => by rw [heq] at hshort; exact Nat.lt_irrefl _ hshort
  have hcheck : appendCheck s = none := appendCheck_eq_none.2 ⟨h.fin, hne⟩
  have happend (b : Byte) : Absorbs (respond 0#4 0x00#8 (appendByte b s)) (m ++ [b]) :=
    (h.appendByte (toNat_len_add_one hne hshort.le).1 b).congr rfl rfl rfl rfl rfl
  exact ⟨fun b => ⟨_, exec_performed he hcheck, happend b⟩, _, exec_performed he hcheck, happend sepByte⟩

theorem absorbs_initHash (s : State) : Absorbs (initHash s) [] := absorbs_nil rfl rfl rfl rfl

/-- Settles O27: `INIT` has no check of its own, and its body starts the empty message. -/
theorem initStartsTheEmptyMessage : Obligations.InitStartsTheEmptyMessage := fun s he =>
  ⟨_, exec_performed he rfl, (absorbs_initHash s).congr rfl rfl rfl rfl rfl⟩

end Sys2Proof.Machine
end

section
/-! PROOFS, family 10_state: the words of the format Z commands (R51), and the status `RDST` reads (R114). -/

namespace Sys2Proof.Machine

/-- A flag below a field shifts the field left by one bit (R26). -/
theorem toNat_append_ofBool {n : Nat} (x : BitVec n) (b : Bool) :
    (x ++ BitVec.ofBool b).toNat = 2 * x.toNat + b.toNat := by
  rw [BitVec.toNat_append, BitVec.toNat_ofBool, ← Nat.shiftLeft_add_eq_or_of_lt (by cases b <;> decide),
    Nat.shiftLeft_eq]
  omega

/-- `STATUS` as a number (R26). -/
theorem toNat_statusWord (s : State) : (statusWord s).toNat =
    s.ecode.toNat * 16 + s.err.toNat * 8 + s.pv.toNat * 4 + s.dv.toNat * 2 + s.fin.toNat := by
  simp only [statusWord, toNat_append_ofBool]
  omega

/-- What the decoder reads from a format Z opcode with any `imm` (R51, R66). -/
theorem decode_formatZ {op : Byte} {i : Instr} (h : formatZ op = some i) (imm : Byte) :
    decode (op ++ imm) = if imm = 0x00#8 then .ok i else .error (.operandNotZero op imm) := by
  have habsorb : op ≠ 0x02#8 := by rintro rfl; cases h
  have hrddig : op ≠ 0x0A#8 := by rintro rfl; cases h
  have hrdpw : op ≠ 0x0B#8 := by rintro rfl; cases h
  simp only [decode, opField_append, immField_append, if_neg habsorb, if_neg hrddig, if_neg hrdpw, h]

/-- Every format Z opcode has one legal word, and its other words fault (R51, R55). -/
theorem formatZWord_of_formatZ {op : Byte} {i : Instr} (h : formatZ op = some i) : FormatZWord op i := by
  refine ⟨(decode_formatZ h 0x00#8).trans (if_pos rfl), fun imm himm s he => ?_⟩
  exact runWord_illegal_fault ⟨_, (decode_formatZ h imm).trans (if_neg himm)⟩ he

/-- Settles O48: `RDST` is performed in every state, and its body is empty. -/
theorem rdstReadsTheStatus : Obligations.RdstReadsTheStatus :=
  ⟨formatZWord_of_formatZ rfl, fun _ => rfl, toNat_statusWord⟩

end Sys2Proof.Machine
end

section
/-! PROOFS, family 10_state: the invariants of R28 hold at reset and every step keeps them. -/

namespace Sys2Proof.Machine

variable {i : Instr} {s t : State}

/-! ### The invariants at reset -/

/-- The reset values meet the invariants whatever `BUF`, `DIGEST` and `PW` hold (R31, R134). -/
theorem inv_of_resetValues (hconfig : t.config.Legal)
    (ht : t = { State.reset with
                  buf := t.buf, digest := t.digest, pw := t.pw, config := t.config, port := t.port }) : Inv t := by
  rw [ht]
  exact
    { config := hconfig
      bufLen := rfl
      len := Nat.zero_le _
      finDv := fun h => nomatch h
      pvEncoded := fun h => nomatch h
      noError := fun _ => rfl
      error := fun h => nomatch h
      finDigest := fun h => nomatch h
      absorbing := fun _ => ⟨[], absorbs_nil rfl rfl rfl rfl⟩ }

/-- Settles O10, by evaluating the reset state. -/
theorem resetValues : Obligations.ResetValues := by
  unfold Obligations.ResetValues
  decide

/-- Settles O58: the reset state has the reset values, and the default `MAXLEN` is legal. -/
theorem resetMeetsTheInvariants : Obligations.ResetMeetsTheInvariants :=
  inv_of_resetValues (by decide) rfl

/-! ### What the invariants do not speak of -/

/-- No invariant speaks of the ports. -/
theorem Inv.withPorts (h : Inv s) (p : List PortEvent) (r : Option RespWord) :
    Inv { s with port := p, resp := r } where
  config := h.config
  bufLen := h.bufLen
  len := h.len
  finDv := h.finDv
  pvEncoded := h.pvEncoded
  noError := h.noError
  error := h.error
  finDigest := h.finDigest
  absorbing hfin := (h.absorbing hfin).imp fun _ hm => hm.congr rfl rfl rfl rfl rfl

theorem Inv.withPort (h : Inv s) (p : List PortEvent) : Inv { s with port := p } := h.withPorts p s.resp

theorem Inv.respond (h : Inv s) (e : BitVec 4) (d : Byte) : Inv (respond e d s) :=
  h.withPorts s.port (some (e ++ d))

/-- Fault entry records a code of R118 and writes nothing else the invariants speak of (R120). -/
theorem Inv.raiseFault (h : Inv s) (c : FaultCode) : Inv (raiseFault c s) where
  config := h.config
  bufLen := h.bufLen
  len := h.len
  finDv := h.finDv
  pvEncoded := h.pvEncoded
  noError h := nomatch h
  error _ := faultNumber_range c
  finDigest := h.finDigest
  absorbing hfin := (h.absorbing hfin).imp fun _ hm => hm.congr rfl rfl rfl rfl rfl

/-! ### The bodies of the commands -/

theorem Inv.initHash (h : Inv s) : Inv (initHash s) where
  config := h.config
  bufLen := rfl
  len := Nat.zero_le _
  finDv h := nomatch h
  pvEncoded := h.pvEncoded
  noError := h.noError
  error := h.error
  finDigest h := nomatch h
  absorbing _ := ⟨[], absorbs_initHash s⟩

/-- An append its check admits counts one byte more, in `LEN` and in `BUFLEN`, and extends the message. -/
theorem Inv.appendByte (h : Inv s) (hcheck : appendCheck s = none) (b : Byte) : Inv (appendByte b s) := by
  obtain ⟨hfin, hne⟩ := appendCheck_eq_none.1 hcheck
  obtain ⟨hlen, hle⟩ := toNat_len_add_one hne h.len
  exact
    { config := by rw [appendByte_config]; exact h.config
      bufLen := by rw [toNat_appendByte_bufLen, appendByte_len, hlen, h.bufLen]; omega
      len := by rw [appendByte_len, appendByte_config, hlen]; exact hle
      finDv := fun hfin' => nomatch (appendByte_fin b s ▸ hfin').symm.trans hfin
      pvEncoded := by simpa using h.pvEncoded
      noError := by simpa using h.noError
      error := by simpa using h.error
      finDigest := fun hfin' => nomatch (appendByte_fin b s ▸ hfin').symm.trans hfin
      absorbing := fun _ => (h.absorbing hfin).imp' (· ++ [b]) fun _ hm => hm.appendByte hlen b }

/-- A finalization latches the digest of the new `H` and takes `PW` its value (R87). -/
theorem Inv.finalizeBody (h : Inv s) : Inv (finalizeBody s) where
  config := h.config
  bufLen := h.bufLen
  len := h.len
  finDv _ := rfl
  pvEncoded h := nomatch h
  noError := h.noError
  error := h.error
  finDigest _ := finalizeBody_digest s
  absorbing h := nomatch h

/-- A rehash counts the 32 digest bytes, which every legal `MAXLEN` admits (R95, D9). -/
theorem Inv.rehashBody (h : Inv s) : Inv (rehashBody s) where
  config := h.config
  bufLen := rfl
  len := by
    rw [rehashBody_len, rehashBody_config]
    exact Nat.le_trans (by decide : 32 ≤ 55) h.config
  finDv _ := rfl
  pvEncoded h := nomatch h
  noError := h.noError
  error := h.error
  finDigest _ := rehashBody_digest s
  absorbing h := nomatch h

theorem Inv.rehashTimes (n : Nat) : ∀ {s : State}, Inv s → Inv (rehashTimes n s) := by
  induction n with
  | zero => exact id
  | succ n ih => exact fun h => ih h.rehashBody

theorem Inv.iterBody (h : Inv s) : Inv (iterBody s) := by
  rw [iterBody_eq]; exact h.rehashTimes iterCount

theorem Inv.deriveBody (h : Inv s) : Inv (deriveBody s) := by
  rw [deriveBody_eq]; exact h.finalizeBody.rehashTimes iterCount

/-- `PW` is encoded from a digest that holds a value (R104). -/
theorem Inv.encodeBody (h : Inv s) (hdv : s.dv = true) : Inv (encodeBody s) where
  config := h.config
  bufLen := h.bufLen
  len := h.len
  finDv := h.finDv
  pvEncoded _ := ⟨hdv, toList_encoded_pw s⟩
  noError := h.noError
  error := h.error
  finDigest := h.finDigest
  absorbing hfin := (h.absorbing hfin).imp fun _ hm => hm.congr rfl rfl rfl rfl rfl

/-- The body of every command keeps the invariants where the command's check admits it. -/
theorem Inv.bodyOf (h : Inv s) (hcheck : checkOf i s = none) : Inv (bodyOf i s) := by
  cases i with
  | nop | rddig _ | rdpw _ | rdst => exact h
  | init => exact h.initHash
  | absorb b => exact h.appendByte hcheck b
  | sep => exact h.appendByte hcheck sepByte
  | final => exact h.finalizeBody
  | rehash => exact h.rehashBody
  | iter => exact h.iterBody
  | derive => exact h.deriveBody
  | encode => exact h.encodeBody (digestCheck_eq_none.1 hcheck)
  | gen => exact h.deriveBody.encodeBody (deriveBody_dv s)

/-! ### Every command and every step -/

theorem Inv.exec (h : Inv s) (hexec : exec i s = .next t) : Inv t := by
  rcases exec_cases hexec with ⟨-, -, rfl⟩ | ⟨-, c, -, rfl⟩ | ⟨-, hcheck, rfl⟩
  · exact h.respond s.ecode 0x00#8
  · exact h.raiseFault c
  · exact (h.bodyOf hcheck).respond 0#4 (dataOf i s)

/-- Settles O57: each thing a step can do keeps the invariants. -/
theorem everyStepKeepsTheInvariants : Obligations.EveryStepKeepsTheInvariants := by
  intro s t h hstep
  rcases step_cases hstep with
    ⟨-, rfl⟩ | ⟨rest, -, rfl⟩ | ⟨w, rest, i, -, -, hexec⟩ | ⟨w, rest, -, -, ⟨-, rfl⟩ | ⟨-, rfl⟩⟩
  · exact h
  · exact inv_of_resetValues h.config rfl
  · exact (h.withPort rest).exec hexec
  · exact (h.withPort rest).raiseFault .illegal
  · exact (h.withPort rest).respond s.ecode 0x00#8

end Sys2Proof.Machine
end

section
/-! PROOFS, family 10_state: cells that hold no value are never read (R32, R146). Each operation, run on two states that
differ only in such cells, leaves two states that differ only in such cells. -/

namespace Sys2Proof.Machine

variable {i : Instr} {s t : State}

/-! ### What two such states agree on -/

/-- The checks look at flags and counters alone (R119). -/
theorem SameValues.checkOf_eq (h : SameValues s t) (i : Instr) : checkOf i t = checkOf i s := by
  rw [h.rest]
  cases i <;> rfl

/-- The padded tail reads `BUF` below `BUFLEN` alone (R85). -/
theorem SameValues.pad_eq (h : SameValues s t) : pad t = pad s := by
  have hbuf := h.buf
  rw [h.rest]
  simp only [pad, hbuf]

/-- A read its check admits reads a cell that holds a value (R112, R113). -/
theorem SameValues.dataOf_eq (h : SameValues s t) (hcheck : checkOf i s = none) : dataOf i t = dataOf i s := by
  cases i with
  | nop | init | absorb _ | sep | final | rehash | iter | derive | encode | gen => rfl
  | rddig n => simp only [dataOf, h.digest (readDigestCheck_eq_none.1 hcheck).1]
  | rdpw n => simp only [dataOf, h.pw (readPasswordCheck_eq_none.1 hcheck).1]
  | rdst => rw [h.rest]; rfl

theorem SameValues.err_eq (h : SameValues s t) : t.err = s.err := by rw [h.rest]

theorem SameValues.bufLen_eq (h : SameValues s t) : t.bufLen = s.bufLen := by rw [h.rest]

theorem SameValues.port_eq (h : SameValues s t) : t.port = s.port := by rw [h.rest]

/-! ### The shared operations -/

/-- The two states as one state with other cells: their operations then agree by evaluation. -/
theorem SameValues.exists_cells (h : SameValues s t) : ∃ buf digest pw,
    t = { s with buf := buf, digest := digest, pw := pw } := ⟨t.buf, t.digest, t.pw, h.rest⟩

/-- An operation that neither reads nor writes a cell, and keeps what says which cells hold a value. -/
theorem SameValues.map (h : SameValues s t) (f : State → State)
    (hcells : ∀ buf digest pw, f { s with buf := buf, digest := digest, pw := pw } =
      { f s with buf := buf, digest := digest, pw := pw })
    (hbufLen : (f s).bufLen = s.bufLen) (hdv : (f s).dv = s.dv) (hpv : (f s).pv = s.pv) :
    SameValues (f s) (f t) := by
  have hs : f s = { f s with buf := s.buf, digest := s.digest, pw := s.pw } := hcells s.buf s.digest s.pw
  have ht : f t = { f s with buf := t.buf, digest := t.digest, pw := t.pw } := (congrArg f h.rest).trans (hcells ..)
  rw [ht, hs]
  exact
    { rest := rfl
      buf := hbufLen ▸ h.buf
      digest := fun hd => h.digest (hdv ▸ hd)
      pw := fun hp => h.pw (hpv ▸ hp) }

theorem SameValues.withPort (h : SameValues s t) (p : List PortEvent) :
    SameValues { s with port := p } { t with port := p } :=
  h.map (fun u => { u with port := p }) (fun _ _ _ => rfl) rfl rfl rfl

theorem SameValues.respond (h : SameValues s t) (e : BitVec 4) (d : Byte) :
    SameValues (respond e d s) (respond e d t) :=
  h.map _ (fun _ _ _ => rfl) rfl rfl rfl

theorem SameValues.raiseFault (h : SameValues s t) (c : FaultCode) :
    SameValues (raiseFault c s) (raiseFault c t) :=
  h.map _ (fun _ _ _ => rfl) rfl rfl rfl

theorem SameValues.refuseCommand (h : SameValues s t) : SameValues (refuseCommand s) (refuseCommand t) :=
  h.map _ (fun _ _ _ => rfl) rfl rfl rfl

/-- After `rst` no cell holds a value. -/
theorem SameValues.applyReset (h : SameValues s t) : SameValues (applyReset s) (applyReset t) where
  rest := by obtain ⟨_, _, _, rfl⟩ := h.exists_cells; rfl
  buf := rfl
  digest h := nomatch h
  pw h := nomatch h

/-! ### The bodies of the commands -/

/-- `INIT` leaves no buffered byte. -/
theorem SameValues.initHash (h : SameValues s t) : SameValues (initHash s) (initHash t) where
  rest := by obtain ⟨_, _, _, rfl⟩ := h.exists_cells; rfl
  buf := rfl
  digest := h.digest
  pw := h.pw

/-- The stored byte stands behind the buffered ones, whatever the stale cells hold. -/
theorem SameValues.memRead_storeByte (h : SameValues s t) (b : Byte) :
    memRead (storeByte b t) 0 (s.bufLen.toNat + 1) = memRead (storeByte b s) 0 (s.bufLen.toNat + 1) := by
  have ht := Machine.memRead_storeByte b t
  rw [h.bufLen_eq, h.buf] at ht
  rw [ht, Machine.memRead_storeByte]

/-- An append compresses the buffered bytes and the new one, no stale cell (R83). -/
theorem SameValues.appendByte_h (h : SameValues s t) (b : Byte) : (appendByte b t).h = (appendByte b s).h := by
  have hh : t.h = s.h := by rw [h.rest]
  by_cases hfull : s.bufLen = 63#6
  · have hstored := h.memRead_storeByte b
    rw [hfull, show (63#6).toNat + 1 = 64 from rfl, memRead_all, memRead_all] at hstored
    rw [(appendByte_full b hfull).2, (appendByte_full b (h.bufLen_eq.trans hfull)).2, hstored, hh]
  · rw [(appendByte_partly b hfull).2, (appendByte_partly b (h.bufLen_eq ▸ hfull)).2, hh]

theorem SameValues.appendByte (h : SameValues s t) (b : Byte) : SameValues (appendByte b s) (appendByte b t) where
  rest := by
    have hh := h.appendByte_h b
    obtain ⟨_, _, _, rfl⟩ := h.exists_cells
    rw [appendByte_eq, hh, appendByte_eq b s]
  buf := by
    rw [appendByte_buf, appendByte_buf]
    rcases appendByte_bufLen_cases b s with hnone | hmore
    · rw [hnone]; rfl
    · rw [hmore, h.memRead_storeByte]
  digest := by simpa using h.digest
  pw := by simpa using h.pw

/-- The latched digest covers every cell of `DIGEST`, and `PW` loses its value (R87). -/
theorem SameValues.latchDigest (h : SameValues s t) (words : Vector Word 8) :
    SameValues (latchDigest words s) (latchDigest words t) where
  rest := by obtain ⟨_, _, _, rfl⟩ := h.exists_cells; rfl
  buf := h.buf
  digest _ := Vector.toList_inj.1 (by rw [toList_latched_digest, toList_latched_digest])
  pw h := nomatch h

/-- A finalization compresses the padded tail of the buffered bytes (R87). -/
theorem SameValues.finalizeBody (h : SameValues s t) : SameValues (finalizeBody s) (finalizeBody t) := by
  have hh : t.h = s.h := by rw [h.rest]
  rw [Machine.finalizeBody, Machine.finalizeBody, h.pad_eq, hh]
  exact h.latchDigest _

/-- A rehash loads the digest, which holds a value, over the buffered bytes (R95). -/
theorem SameValues.loadDigest (h : SameValues s t) (hdv : s.dv = true) :
    SameValues (loadDigest s) (loadDigest t) where
  rest := by obtain ⟨_, _, _, rfl⟩ := h.exists_cells; rfl
  buf := by
    have hload (u : State) : memRead (Machine.loadDigest u).buf 0 32 = u.digest.toList := by
      simpa using memRead_memWrite_head u.buf (memRead u.digest 0 32) (by simp)
    exact (hload t).trans ((congrArg _ (h.digest hdv)).trans (hload s).symm)
  digest := h.digest
  pw := h.pw

theorem SameValues.rehashTimes (n : Nat) : ∀ {s t : State}, SameValues s t → s.dv = true →
    SameValues (rehashTimes n s) (rehashTimes n t) := by
  induction n with
  | zero => exact fun h _ => h
  | succ n ih => exact fun h hdv => ih (h.loadDigest hdv).finalizeBody rfl

theorem SameValues.iterBody (h : SameValues s t) (hdv : s.dv = true) : SameValues (iterBody s) (iterBody t) := by
  rw [iterBody_eq, iterBody_eq]; exact h.rehashTimes iterCount hdv

theorem SameValues.deriveBody (h : SameValues s t) : SameValues (deriveBody s) (deriveBody t) := by
  rw [deriveBody_eq, deriveBody_eq]; exact h.finalizeBody.rehashTimes iterCount rfl

/-- `ENCODE` reads a digest that holds a value and writes the whole of `PW` (R104). -/
theorem SameValues.encodeBody (h : SameValues s t) (hdv : s.dv = true) :
    SameValues (encodeBody s) (encodeBody t) where
  rest := by obtain ⟨_, _, _, rfl⟩ := h.exists_cells; rfl
  buf := h.buf
  digest := h.digest
  pw _ := Vector.toList_inj.1 (by rw [toList_encoded_pw, toList_encoded_pw, h.digest hdv])

/-- The body of every command, where the command's check admits it. -/
theorem SameValues.bodyOf (h : SameValues s t) (hfinDv : s.fin = true → s.dv = true) (hcheck : checkOf i s = none) :
    SameValues (bodyOf i s) (bodyOf i t) := by
  cases i with
  | nop | rddig _ | rdpw _ | rdst => exact h
  | init => exact h.initHash
  | absorb b => exact h.appendByte b
  | sep => exact h.appendByte sepByte
  | final => exact h.finalizeBody
  | rehash => exact (h.loadDigest (hfinDv (rehashCheck_eq_none.1 hcheck))).finalizeBody
  | iter => exact h.iterBody (hfinDv (rehashCheck_eq_none.1 hcheck))
  | derive => exact h.deriveBody
  | encode => exact h.encodeBody (digestCheck_eq_none.1 hcheck)
  | gen => exact h.deriveBody.encodeBody (deriveBody_dv s)

/-! ### Every command and every step -/

theorem SameValues.exec {s' : State} (h : SameValues s t) (hfinDv : s.fin = true → s.dv = true)
    (hexec : exec i s = .next s') : ∃ t', exec i t = .next t' ∧ SameValues s' t' := by
  rcases exec_cases hexec with ⟨he, hi, rfl⟩ | ⟨he, c, hc, rfl⟩ | ⟨he, hc, rfl⟩
  · exact ⟨_, exec_refused hi (h.err_eq.trans he), h.refuseCommand⟩
  · exact ⟨_, exec_fault (h.err_eq.trans he) ((h.checkOf_eq i).trans hc), h.raiseFault c⟩
  · have hperform : SameValues (performOf i s) (performOf i t) := by
      rw [performOf, performOf, h.dataOf_eq hc]
      exact (h.bodyOf hfinDv hc).respond 0#4 (dataOf i s)
    rcases he with he | rfl
    · exact ⟨_, exec_performed (h.err_eq.trans he) ((h.checkOf_eq i).trans hc), hperform⟩
    · exact ⟨_, exec_rdst t, hperform⟩

/-- Settles O59: each thing a step can do on the one state it does on the other. -/
theorem valuelessCellsAreNeverRead : Obligations.ValuelessCellsAreNeverRead := by
  intro s t s' hfinDv h hstep
  have hport := h.port_eq
  rcases step_cases hstep with ⟨hp, rfl⟩ | ⟨rest, hp, rfl⟩ | ⟨w, rest, i, hp, hd, hexec⟩ |
    ⟨w, rest, hp, hi, ⟨he, rfl⟩ | ⟨he, rfl⟩⟩ <;> rw [hp] at hport
  · exact ⟨t, step_waits hport, h⟩
  · exact ⟨_, step_reset hport, (h.withPort rest).applyReset⟩
  · rw [step_command hport, runWord_decoded hd]
    exact (h.withPort rest).exec hfinDv hexec
  · exact ⟨_, (step_command hport).trans (runWord_illegal_fault hi (h.err_eq.trans he)),
      (h.withPort rest).raiseFault .illegal⟩
  · exact ⟨_, (step_command hport).trans (runWord_illegal_refused hi (h.err_eq.trans he)),
      (h.withPort rest).refuseCommand⟩

end Sys2Proof.Machine
end

section
/-! PROOFS, family 20_memory: a command's word decodes to it, and the words at the port run as commands in order
(R46, R59). -/

namespace Sys2Proof.Machine

variable {i : Instr} {s t : State}

/-- An index that fits the field `imm` is the number of some byte (R52). -/
theorem exists_byte_of_indexFits {n : Nat} (h : indexFits n = true) : ∃ b : Byte, b.toNat = n :=
  ⟨BitVec.ofNat 8 n, by have := of_decide_eq_true h; rw [BitVec.toNat_ofNat]; omega⟩

/-- The word of a well-formed command decodes to that command (R53, R66). -/
theorem decode_encode (h : i.wellFormed = true) : decode (encode i) = .ok i := by
  cases i with
  | nop | init | sep | final | rehash | iter | derive | encode | gen | rdst => rfl
  | absorb b => rw [encode_absorb]; simp [decode]
  | rddig n =>
    obtain ⟨b, rfl⟩ := exists_byte_of_indexFits h
    rw [encode_rddig]; simp [decode]
  | rdpw n =>
    obtain ⟨b, rfl⟩ := exists_byte_of_indexFits h
    rw [encode_rdpw]; simp [decode]

/-- The word of a well-formed command, presented next, runs as that command in one step (R59). -/
theorem step_encode (h : i.wellFormed = true) {rest : List PortEvent}
    (hport : s.port = .command (encode i) :: rest) : step s = exec i { s with port := rest } := by
  rw [step_command hport, runWord_decoded (decode_encode h)]

/-- A run begins with its first step. -/
theorem run_succ (h : step s = .next t) (k : Nat) : Host.Core.run core (k + 1) s = Host.Core.run core k t :=
  have hstep : core.step s = .next t := h
  by simp only [Host.Core.run, hstep]

theorem runAll_cons (h : exec i s = .next t) (is : List Instr) : runAll (i :: is) s = runAll is t := by
  rw [runAll, h]

/-- Settles O11, by induction on the commands: the first one does the same whether the words of the others or the later
events stand behind it. -/
theorem portRunsCommandsInOrder : Obligations.PortRunsCommandsInOrder := by
  intro is
  induction is with
  | nil => exact fun s rest _ => rfl
  | cons i is ih =>
    intro s rest hwf
    obtain ⟨hi, his⟩ := List.forall_mem_cons.1 hwf
    obtain ⟨t, ht⟩ := exec_answers i s
    have hstep : step { s with port := (i :: is).map (fun i => .command (encode i)) ++ rest } =
        .next { t with port := is.map (fun i => .command (encode i)) ++ rest } :=
      (step_encode hi rfl).trans (exec_withPort ht _)
    rw [runAll_cons (exec_withPort ht rest)]
    exact (run_succ hstep is.length).trans (ih t rest his)

end Sys2Proof.Machine
end

section
/-! PROOFS, family 20_memory: after a finalization `DIGEST` is `H` in big-endian bytes (R37, R88). -/

namespace Sys2Proof.Machine

variable {i : Instr}

/-- The body of a command that writes `DIGEST` leaves the serialized `H` in it (R87, R95). -/
theorem bodyOf_digest_eq_serialize (hw : i.writesDigest = true) (s : State) :
    (bodyOf i s).digest.toList = serialize (bodyOf i s).h := by
  cases i with
  | nop | init | absorb _ | sep | encode | rddig _ | rdpw _ | rdst => cases hw
  | final => exact finalizeBody_digest s
  | rehash => exact rehashBody_digest s
  | iter => exact iterBody_digest s
  | derive | gen => exact deriveBody_digest s

/-- A command that does not leave the fault flag set was performed. -/
theorem exec_unfaulted {s t : State} (h : exec i s = .next t) (ht : t.err = false) : t = performOf i s := by
  rcases exec_cases h with ⟨he, -, rfl⟩ | ⟨-, c, -, rfl⟩ | ⟨-, -, rfl⟩
  · exact nomatch he.symm.trans ht
  · exact nomatch ht
  · rfl

/-- `H[0]` is serialized first (R88). -/
theorem take_serialize (h : Vector Word 8) : (serialize h).take 4 = be32 h[0] := by
  have hcons : h.toList = h[0] :: h.toList.drop 1 :=
    (List.getElem_cons_drop (as := h.toList) (i := 0) (by simp)).symm
  rw [serialize, hcons, List.flatMap_cons]
  rfl

/-- Settles O26: the bytes of `DIGEST` are those of the serialized `H`. -/
theorem digestIsHBigEndian : Obligations.DigestIsHBigEndian := by
  refine ⟨fun i s t hw hexec ht k j => ?_, fun h h0 => ?_⟩
  · have hdigest : t.digest.toList = serialize t.h := by
      rw [exec_unfaulted hexec ht]
      exact bodyOf_digest_eq_serialize hw s
    rw [hdigest]
    exact getElem?_serialize t.h k j
  · rw [take_serialize, h0]; rfl

end Sys2Proof.Machine
end

section
/-! PROOFS, family 20_memory: `process` is one `ABSORB` per byte (R81, R89). -/

namespace Sys2Proof.Machine

variable {s : State}

/-- No append reads the response. -/
theorem processBytes_withResp (m : List Byte) (r : Option RespWord) : ∀ s : State,
    processBytes m { s with resp := r } = { processBytes m s with resp := r } := by
  induction m with
  | nil => exact fun s => rfl
  | cons b m ih => exact fun s => (congrArg (processBytes m) (appendByte_withResp b s r)).trans (ih (appendByte b s))

/-- The response of a command that completes and reads nothing is the word zero (R54). -/
theorem respond_zero (s : State) : respond 0#4 0x00#8 s = { s with resp := some 0 } := rfl

/-- An `ABSORB` its checks admit appends its byte and answers `(0, 0x00)` (R83, R54). -/
theorem exec_absorb (he : s.err = false) (hfin : s.fin = false) (hroom : s.len ≠ s.config.maxLen) (b : Byte) :
    exec (.absorb b) s = .next { appendByte b s with resp := some 0 } := by
  have hcheck : checkOf (.absorb b) s = none := appendCheck_eq_none.2 ⟨hfin, hroom⟩
  rw [exec_performed he hcheck]
  exact congrArg Host.Outcome.next (respond_zero (appendByte b s))

/-- Settles O29, by induction on the bytes: each `ABSORB` passes its checks and leaves room for the others. -/
theorem processIsAbsorbPerByte : Obligations.ProcessIsAbsorbPerByte := by
  intro m
  induction m with
  | nil => exact fun s _ _ _ => rfl
  | cons b m ih =>
    intro s he hfin hroom
    rw [List.length_cons] at hroom
    have hne : s.len ≠ s.config.maxLen := fun heq => by rw [heq] at hroom; omega
    have hlen := (toNat_len_add_one hne (by omega)).1
    have hrest := ih { appendByte b s with resp := some 0 } ((appendByte_err b s).trans he)
      ((appendByte_fin b s).trans hfin) (by simp only [appendByte_len, appendByte_config, hlen]; omega)
    rw [processBytes_withResp, ite_self] at hrest
    exact (runAll_cons (exec_absorb he hfin hne b) _).trans hrest

end Sys2Proof.Machine
end

section
/-! PROOFS, family 30_encoding: decoder and encoder are inverse to each other, the opcode map decides every word, and
the operands are the field `imm` (R50 to R55, R66). -/

namespace Sys2Proof.Machine

variable {w : CmdWord} {i : Instr} {s : State}

/-! ### The decoder (R66) -/

/-- Settles O1: each constructor's word, whose operand fits the field `imm`, is decoded by its opcode. -/
theorem decodeInvertsEncode : Obligations.DecodeInvertsEncode := fun _ => decode_encode

/-- An index read from the field `imm` fits it (R52). -/
theorem indexFits_toNat (b : Byte) : indexFits b.toNat = true := decide_eq_true (Nat.le_of_lt_succ b.isLt)

theorem decode_absorb (b : Byte) : decode (0x02#8 ++ b) = .ok (.absorb b) := by
  rw [← encode_absorb, decode_encode rfl]

theorem decode_rddig (b : Byte) : decode (0x0A#8 ++ b) = .ok (.rddig b.toNat) := by
  rw [← encode_rddig]; exact decode_encode (i := .rddig b.toNat) (indexFits_toNat b)

theorem decode_rdpw (b : Byte) : decode (0x0B#8 ++ b) = .ok (.rdpw b.toNat) := by
  rw [← encode_rdpw]; exact decode_encode (i := .rdpw b.toNat) (indexFits_toNat b)

/-- Settles O2: the field `op` of a word that decodes says its command, and the field `imm` the operand, so the
command's word has the same two fields. -/
theorem encodeInvertsDecode : Obligations.EncodeInvertsDecode := by
  intro w i h
  have hfields := opField_append_immField w
  rcases decode_cases w with ⟨hop, hd⟩ | ⟨hop, hd⟩ | ⟨hop, hd⟩ | ⟨j, hz, himm, hd⟩ | ⟨-, -, e, hd⟩ |
    ⟨-, -, -, -, e, hd⟩ <;> rw [hd] at h <;> cases h
  · rw [hop] at hfields
    exact ⟨(encode_absorb _).trans hfields, rfl⟩
  · rw [hop] at hfields
    exact ⟨(encode_rddig _).trans hfields, indexFits_toNat _⟩
  · rw [hop] at hfields
    exact ⟨(encode_rdpw _).trans hfields, indexFits_toNat _⟩
  · rw [himm] at hfields
    exact ⟨(encode_formatZ _ i hz).trans hfields, wellFormed_formatZ _ i hz⟩

/-! ### The opcode map (R53) -/

/-- The word of a well-formed command selects the command's row (R53). -/
theorem encode_and_rowMask (h : i.wellFormed = true) : encode i &&& rowMask i = rowMatch i := by
  cases i with
  | nop => exact Laws.Row.nop h
  | init => exact Laws.Row.init h
  | absorb b => exact Laws.Row.absorb b h
  | sep => exact Laws.Row.sep h
  | final => exact Laws.Row.final h
  | rehash => exact Laws.Row.rehash h
  | iter => exact Laws.Row.iter h
  | derive => exact Laws.Row.derive h
  | encode => exact Laws.Row.encode h
  | gen => exact Laws.Row.gen h
  | rddig n => exact Laws.Row.rddig n h
  | rdpw n => exact Laws.Row.rdpw n h
  | rdst => exact Laws.Row.rdst h

/-- Every command has a row in the opcode map, with its `match` and `mask` (R53). -/
theorem exists_opcodeRow (i : Instr) : ∃ r ∈ opcodeMap, r.rowMatch = rowMatch i ∧ r.rowMask = rowMask i := by
  cases i <;> simp [opcodeMap, rowMatch, rowMask]

/-- The field `imm` as a word is the word with its high byte masked away (R50). -/
theorem setWidth_setWidth_imm (w : CmdWord) : (w.setWidth 8).setWidth 16 = w &&& 0x00FF#16 := by
  apply BitVec.eq_of_toNat_eq
  rw [BitVec.toNat_and, BitVec.toNat_setWidth_of_le (by decide), BitVec.toNat_setWidth]
  exact (Nat.and_two_pow_sub_one_eq_mod w.toNat 8).symm

/-- What a row of the opcode map says of its command: it is well formed, and `match` and `mask` are its own (R53). -/
theorem opcodeRow_command (r : OpcodeRow) (hr : r ∈ opcodeMap) (b : Byte) :
    (r.command b).wellFormed = true ∧ rowMatch (r.command b) = r.rowMatch := by
  revert r
  simp [opcodeMap, Instr.wellFormed, rowMatch, indexFits_toNat]

/-- The operand of a row's command is the part of the word outside the row's mask (R53). -/
theorem opcodeRow_operandField (r : OpcodeRow) (hr : r ∈ opcodeMap) (w : CmdWord) :
    (operandField (r.command (w.setWidth 8))).setWidth 16 = w &&& ~~~r.rowMask := by
  have himm := setWidth_setWidth_imm w
  generalize w.setWidth 8 = b at himm ⊢
  revert r
  simp [opcodeMap, operandField, himm]

/-- A word that selects a row is the word of the row's command with the operand in bits 7:0 (R53). -/
theorem encode_command_of_selects {r : OpcodeRow} (hr : r ∈ opcodeMap) (h : r.Selects w) :
    encode (r.command (w.setWidth 8)) = w := by
  calc encode (r.command (w.setWidth 8))
    _ = (w &&& r.rowMask) ||| (w &&& ~~~r.rowMask) := by
        rw [encode, (opcodeRow_command r hr _).2, opcodeRow_operandField r hr, h]
    _ = w := by rw [← BitVec.and_or_distrib_left, BitVec.or_not_self, BitVec.and_allOnes]

theorem decode_of_selects {r : OpcodeRow} (hr : r ∈ opcodeMap) (h : r.Selects w) :
    decode w = .ok (r.command (w.setWidth 8)) := by
  have hd := decode_encode (opcodeRow_command r hr (w.setWidth 8)).1
  rwa [encode_command_of_selects hr h] at hd

/-- A word that decodes selects the row of its command (R53). -/
theorem exists_selects_of_decode (h : decode w = .ok i) : ∃ r ∈ opcodeMap, r.Selects w := by
  obtain ⟨hw, hwf⟩ := encodeInvertsDecode w i h
  obtain ⟨r, hr, hmatch, hmask⟩ := exists_opcodeRow i
  refine ⟨r, hr, ?_⟩
  rw [OpcodeRow.Selects, hmatch, hmask, ← hw, encode_and_rowMask hwf]

/-- Settles O3: a row's command is read from a word by its own `match`, and no two rows have the same. -/
theorem opcodeMapDecidesEveryWord : Obligations.OpcodeMapDecidesEveryWord := by
  refine ⟨fun w r hr h => decode_of_selects hr h, fun w hnone => ?_, ?_⟩
  · rcases word_cases w with ⟨i, hd⟩ | hillegal
    · obtain ⟨r, hr, h⟩ := exists_selects_of_decode hd
      exact absurd h (hnone r hr)
    · exact hillegal
  · have hdistinct : opcodeMap.Pairwise (fun r r' => r.rowMatch ≠ r'.rowMatch) := by decide
    refine hdistinct.imp_of_mem fun {r r'} hr hr' hne w ⟨h, h'⟩ => hne ?_
    have hcommand : r.command (w.setWidth 8) = r'.command (w.setWidth 8) :=
      Except.ok.inj ((decode_of_selects hr h).symm.trans (decode_of_selects hr' h'))
    rw [← (opcodeRow_command r hr _).2, hcommand, (opcodeRow_command r' hr' _).2]

/-! ### The operands (R52) -/

theorem indexCheck_eq_some {n : Nat} (h : 31 < n) : indexCheck n = some .index := if_pos h

/-- An index above 31 of a `DIGEST` that holds a value faults with `E_INDEX` (R127). -/
theorem exec_rddig_index {n : Nat} (he : s.err = false) (hdv : s.dv = true) (h : 31 < n) :
    exec (.rddig n) s = .next (faulted 5 s) :=
  exec_fault (c := .index) he ((if_pos hdv).trans (indexCheck_eq_some h))

/-- An index above 31 of a `PW` that holds a value faults with `E_INDEX` (R127). -/
theorem exec_rdpw_index {n : Nat} (he : s.err = false) (hpv : s.pv = true) (h : 31 < n) :
    exec (.rdpw n) s = .next (faulted 5 s) :=
  exec_fault (c := .index) he ((if_pos hpv).trans (indexCheck_eq_some h))

/-- Settles O5: the decoder reads the whole of `imm` as the operand, and the index check compares all of it. -/
theorem operandsAreTheImmField : Obligations.OperandsAreTheImmField := by
  refine ⟨decode_absorb, fun b => ⟨decode_rddig b, decode_rdpw b⟩, fun b s he hdv h => ?_,
    fun b s he hpv h => ?_, ?_⟩
  · rw [runWord_decoded (decode_rddig b), exec_rddig_index he hdv h]
  · rw [runWord_decoded (decode_rdpw b), exec_rdpw_index he hpv h]
  · exact ⟨formatZWord_of_formatZ rfl, formatZWord_of_formatZ rfl, formatZWord_of_formatZ rfl,
      formatZWord_of_formatZ rfl, formatZWord_of_formatZ rfl, formatZWord_of_formatZ rfl, formatZWord_of_formatZ rfl,
      formatZWord_of_formatZ rfl, formatZWord_of_formatZ rfl, formatZWord_of_formatZ rfl⟩

/-- Settles O6, by decoding the 19 words. -/
theorem specWordsDecode : Obligations.SpecWordsDecode :=
  ⟨rfl, rfl, rfl, rfl, rfl, rfl, rfl, rfl, rfl, rfl, rfl, rfl, rfl, rfl,
    ⟨_, rfl⟩, ⟨_, rfl⟩, ⟨_, rfl⟩, ⟨_, rfl⟩, ⟨_, rfl⟩⟩

end Sys2Proof.Machine
end

section
/-! PROOFS, family 30_encoding: what a step runs, that it always answers, and the form of every response (R54, R56,
R59). -/

namespace Sys2Proof.Machine

variable {w : CmdWord} {i : Instr} {s : State}

/-! ### The step (R59) -/

/-- Settles O7: a step runs the word it takes, decoded or illegal. -/
theorem stepRunsTheDecodedCommand : Obligations.StepRunsTheDecodedCommand := by
  intro s w rest hport
  rw [step_command hport]
  exact ⟨fun i hd => runWord_decoded hd _, fun hi he => runWord_illegal_fault hi he,
    fun hi he => runWord_illegal_refused hi he⟩

/-- Settles O8: an empty port is a waiting host. -/
theorem stateKeptWhileTheHostWaits : Obligations.StateKeptWhileTheHostWaits := fun _ => step_waits

/-- Every word answers a next state (R56). -/
theorem runWord_answers (w : CmdWord) (s : State) : ∃ t, runWord w s = .next t := by
  rcases word_cases w with ⟨i, hd⟩ | hi
  · rw [runWord_decoded hd]; exact exec_answers i s
  · cases he : s.err with
    | false => exact ⟨_, runWord_illegal_fault hi he⟩
    | true => exact ⟨_, runWord_illegal_refused hi he⟩

/-- Settles O54, for each of the three things a step can find at the port. -/
theorem everyStepAnswers : Obligations.EveryStepAnswers := by
  intro s
  match hport : s.port with
  | [] => exact ⟨s, step_waits hport⟩
  | .command w :: rest => rw [step_command hport]; exact runWord_answers w _
  | .reset :: rest => exact ⟨_, step_reset hport⟩

/-! ### The response (R54) -/

/-- The word 0x0C00 is the word of `RDST` (R53). -/
theorem decode_eq_rdst : decode w = .ok .rdst ↔ w = 0x0C00 :=
  ⟨fun h => (encodeInvertsDecode w .rdst h).1.symm, fun h => by rw [h]; rfl⟩

theorem illegalWord_ne_rdst (h : IllegalWord w) : w ≠ 0x0C00 := by
  obtain ⟨e, hd⟩ := h
  exact fun hw => nomatch (decode_eq_rdst.2 hw).symm.trans hd

/-- The byte a command responds with once its check has passed: the one it reads, `STATUS`, or 0x00 (R54). -/
theorem dataOf_cases (hcheck : checkOf i s = none) :
    (∃ n, n ≤ 31 ∧ i = .rddig n ∧ s.digest[n]? = some (dataOf i s)) ∨
    (∃ n, n ≤ 31 ∧ i = .rdpw n ∧ s.pw[n]? = some (dataOf i s)) ∨
    (i = .rdst ∧ dataOf i s = statusWord s) ∨
    (i.readIndex = none ∧ i ≠ .rdst ∧ dataOf i s = 0x00#8) := by
  cases i with
  | rddig n =>
    have hn := (readDigestCheck_eq_none.1 hcheck).2
    have hlt : n < 32 := by omega
    exact .inl ⟨n, hn, rfl, by rw [dataOf, byteAt_eq _ n hlt, Vector.getElem?_eq_getElem hlt]⟩
  | rdpw n =>
    have hn := (readPasswordCheck_eq_none.1 hcheck).2
    have hlt : n < 32 := by omega
    exact .inr (.inl ⟨n, hn, rfl, by rw [dataOf, byteAt_eq _ n hlt, Vector.getElem?_eq_getElem hlt]⟩)
  | rdst => exact .inr (.inr (.inl ⟨rfl, rfl⟩))
  | nop | init | absorb _ | sep | final | rehash | iter | derive | encode | gen =>
    exact .inr (.inr (.inr ⟨rfl, nofun, rfl⟩))

/-- Settles O12: a word is refused, faults, or completes, and each of the three has its form of response. -/
theorem everyWordGetsOneResponse : Obligations.EveryWordGetsOneResponse := by
  intro w s
  rcases word_cases w with ⟨i, hd⟩ | hi
  · rw [runWord_decoded hd]
    obtain ⟨t, ht⟩ := exec_answers i s
    rw [ht]
    rcases exec_cases ht with ⟨he, hne, rfl⟩ | ⟨he, c, -, rfl⟩ | ⟨-, hcheck, rfl⟩
    · have hw : w ≠ 0x0C00 := fun hw => hne (Except.ok.inj (hd.symm.trans (decode_eq_rdst.2 hw)))
      exact ⟨_, s.ecode, 0x00#8, rfl, rfl, .inl ⟨he, hw, rfl, rfl⟩⟩
    · exact ⟨_, faultNumber c, 0x00#8, rfl, rfl, .inr (.inl ⟨he, rfl, rfl, faultNumber_ne_zero c, rfl⟩)⟩
    · refine ⟨_, 0#4, dataOf i s, rfl, rfl, .inr (.inr ⟨bodyOf_err i s, rfl, ?_⟩)⟩
      rcases dataOf_cases hcheck with ⟨n, hn, rfl, hdata⟩ | ⟨n, hn, rfl, hdata⟩ | ⟨rfl, hdata⟩ | ⟨hread, hne, hdata⟩
      · exact .inl ⟨n, hn, hd, hdata⟩
      · exact .inr (.inl ⟨n, hn, hd, hdata⟩)
      · exact .inr (.inr (.inl ⟨decode_eq_rdst.1 hd, hdata⟩))
      · exact .inr (.inr (.inr ⟨i, hd, hread, hne, hdata⟩))
  · cases he : s.err with
    | false =>
      exact ⟨_, 1#4, 0x00#8, runWord_illegal_fault hi he, rfl, .inr (.inl ⟨rfl, rfl, rfl, by decide, rfl⟩)⟩
    | true =>
      exact ⟨_, s.ecode, 0x00#8, runWord_illegal_refused hi he, rfl, .inl ⟨rfl, illegalWord_ne_rdst hi, rfl, rfl⟩⟩

end Sys2Proof.Machine
end

section
/-! PROOFS, family 30_encoding: the lines of `DERIVEPW` compute `derive` (R63, R94, R97). A finalization hashes the
message the hash state holds, a rehash the raw digest. -/

namespace Sys2Proof.Machine

variable {s : State} {m : List Byte}

/-! ### What a finalization and a rehash hash (R87, R90, R95) -/

/-- The blocks of the padded message are the message's whole blocks, then those of the padded tail (R85, R90). -/
theorem Absorbs.messageBlocks_eq (h : Absorbs s m) :
    messageBlocks m = cutBlocks (m.length / 64) m ++ cutBlocks ((pad s).length / 64) (pad s) := by
  have hlen : (m.take (64 * (m.length / 64))).length = 64 * (m.length / 64) := by
    rw [List.length_take]; omega
  have hwhole : cutBlocks (m.length / 64) (m.take (64 * (m.length / 64))) = cutBlocks (m.length / 64) m := by
    rw [← cutBlocks_append _ (m.drop (64 * (m.length / 64))) _ hlen.ge, List.take_append_drop]
  have hcount : (paddedMessage m).length / 64 = m.length / 64 + (pad s).length / 64 := by
    rw [paddedMessage_eq h, List.length_append, hlen]; omega
  rw [messageBlocks, hcount, cutBlocks_add, paddedMessage_eq h, cutBlocks_append _ _ _ hlen.ge, hwhole,
    List.drop_left' hlen]

/-- A finalization hashes the message the hash state holds (R87, R90). -/
theorem Absorbs.finalizeBody_digest (h : Absorbs s m) : (finalizeBody s).digest.toList = hashMessage m := by
  rw [Machine.finalizeBody_digest, finalizeBody_h, compressTail_eq_foldl _ _ (length_pad_cases s), h.h,
    ← chain_append, ← h.messageBlocks_eq, hashMessage]

/-- The hash state a rehash loads is that of the raw digest as a message, but for the phase (R95). -/
theorem absorbs_loadDigest (s : State) : Absorbs { loadDigest s with fin := false } s.digest.toList where
  fin := rfl
  len := by rw [Vector.length_toList]; rfl
  bufLen := by rw [Vector.length_toList]; rfl
  h := by rw [Vector.length_toList]; rfl
  buf := by
    rw [Vector.length_toList]
    simpa using memRead_memWrite_head s.buf (memRead s.digest 0 32) (by simp)

/-- A rehash hashes the raw digest (R95). -/
theorem rehashBody_digest_eq_hashMessage (s : State) :
    (rehashBody s).digest.toList = hashMessage s.digest.toList :=
  (absorbs_loadDigest s).finalizeBody_digest

/-- Rehashes hash the raw digest again and again (R94 step 3). -/
theorem rehashTimes_digest (n : Nat) : ∀ s : State,
    (rehashTimes n s).digest.toList = hashTimes n s.digest.toList := by
  induction n with
  | zero => exact fun s => rfl
  | succ n ih => intro s; rw [rehashTimes, ih, rehashBody_digest_eq_hashMessage, hashTimes]

/-- `DERIVE` hashes the message, then the raw digest 1000 times (R97). -/
theorem Absorbs.deriveBody_digest (h : Absorbs s m) :
    (deriveBody s).digest.toList = hashTimes iterCount (hashMessage m) := by
  rw [deriveBody_eq, rehashTimes_digest, h.finalizeBody_digest]

/-! ### The lines that absorb a message (R61, R63) -/

/-- Lists of commands that run alike from every state run alike behind one more command. -/
theorem runAll_cons_congr {is js : List Instr} (h : ∀ t, runAll is t = runAll js t) (i : Instr) (s : State) :
    runAll (i :: is) s = runAll (i :: js) s := by
  obtain ⟨t, ht⟩ := exec_answers i s
  rw [runAll_cons ht, runAll_cons ht, h t]

/-- The Derivation Input is sent as a message: its `SEP` is an `ABSORB` of the separator byte (R63, R84). -/
theorem runAll_expandInput (ident sec : List Byte) : ∀ s : State,
    runAll (expandInput ident sec) s = runAll (expandMsg (derivationInput ident sec)) s := by
  induction ident with
  | nil => exact fun s => rfl
  | cons b ident ih => exact runAll_cons_congr ih (.absorb b)

/-- The bytes of a line are absorbed one after the other while they fit below `MAXLEN`, and nothing faults (R81). -/
theorem Absorbs.runAll_expandMsg (bytes : List Byte) : ∀ {s : State} {m : List Byte}, Absorbs s m → s.err = false →
    m.length + bytes.length ≤ s.config.maxLen.toNat →
    ∃ t, runAll (expandMsg bytes) s = .next t ∧ Absorbs t (m ++ bytes) ∧ t.err = false ∧ t.ecode = s.ecode := by
  induction bytes with
  | nil => exact fun {s m} h he _ => ⟨s, rfl, by rwa [List.append_nil], he, rfl⟩
  | cons b bytes ih =>
    intro s m h he hroom
    rw [List.length_cons, ← h.len] at hroom
    have hne : s.len ≠ s.config.maxLen := fun heq => by rw [heq] at hroom; omega
    have hlen := (toNat_len_add_one hne (by omega)).1
    have happend : Absorbs { Machine.appendByte b s with resp := some 0 } (m ++ [b]) :=
      (h.appendByte hlen b).congr rfl rfl rfl rfl rfl
    obtain ⟨t, ht, habsorbs, herr, hecode⟩ := ih happend ((appendByte_err b s).trans he) (by
      simp only [appendByte_config, List.length_append, List.length_singleton, ← h.len]; omega)
    refine ⟨t, (runAll_cons (exec_absorb he h.fin hne b) _).trans ht, ?_, herr, hecode.trans (appendByte_ecode b s)⟩
    rwa [List.append_assoc] at habsorbs

/-- `INIT` and the bytes of a message leave the hash state of that message, from every unfaulted state (R80, R81). -/
theorem runAll_init_expandMsg (he : s.err = false) (hroom : m.length ≤ s.config.maxLen.toNat) :
    ∃ t, runAll (.init :: expandMsg m) s = .next t ∧ Absorbs t m ∧ t.err = false ∧ t.ecode = s.ecode := by
  have hinit : exec .init s = .next (performOf .init s) := exec_performed he rfl
  have hempty : Absorbs (performOf .init s) [] := (absorbs_initHash s).congr rfl rfl rfl rfl rfl
  obtain ⟨t, ht, habsorbs, herr, hecode⟩ := hempty.runAll_expandMsg m he (by rwa [List.length_nil, Nat.zero_add])
  exact ⟨t, (runAll_cons hinit _).trans ht, habsorbs, herr, hecode⟩

/-! ### `DERIVEPW` (R63) -/

/-- `STATUS` says a digest and no password in the finalized phase, and no fault (R26). -/
theorem statusWord_derived (hecode : s.ecode = 0) (herr : s.err = false) (hpv : s.pv = false) (hdv : s.dv = true)
    (hfin : s.fin = true) : statusWord s = 0x03 := by
  rw [statusWord, hecode, herr, hpv, hdv, hfin]
  rfl

/-- Settles O37: the hash state of the Derivation Input, then `DERIVE`. -/
theorem derivepwLeavesTheDerivedDigest : Obligations.DerivepwLeavesTheDerivedDigest := by
  intro s ident sec he hecode hroom
  have hlength : (derivationInput ident sec).length ≤ s.config.maxLen.toNat := by
    rwa [derivationInput, List.length_append, List.length_append, List.length_singleton]
  obtain ⟨t, ht, habsorbs, herr, hecode'⟩ := runAll_init_expandMsg he hlength
  have hinput : runAll ([.init] ++ expandInput ident sec) s = .next t :=
    (runAll_cons_congr (runAll_expandInput ident sec) .init s).trans ht
  have hderive : exec .derive t = .next (performOf .derive t) :=
    exec_performed herr (finalizeCheck_eq_none.2 habsorbs.fin)
  refine ⟨performOf .derive t, ?_, habsorbs.deriveBody_digest, ?_⟩
  · exact (runAll_append _ _ _ _ hinput).trans (runAll_cons hderive [])
  · exact statusWord_derived ((bodyOf_ecode .derive t).trans (hecode'.trans hecode))
      ((bodyOf_err .derive t).trans herr) (deriveBody_pv t) (deriveBody_dv t) (deriveBody_fin t)

end Sys2Proof.Machine
end

section
/-! PROOFS, family 40_compression: the word functions bit by bit (R67, R68) and with the rotation of R8 (R69 to R72). -/

namespace Sys2Proof.Machine

/-! ### `Ch` and `Maj` (R67, R68) -/

/-- Each bit of `x` chooses between the bits of `y` and `z`; past bit 31 all three are 0. -/
theorem getLsbD_ch (x y z : Word) (k : Nat) :
    (ch x y z).getLsbD k = if x.getLsbD k then y.getLsbD k else z.getLsbD k := by
  rw [ch, BitVec.getLsbD_xor, BitVec.getLsbD_and, BitVec.getLsbD_and, BitVec.getLsbD_not]
  rcases Nat.lt_or_ge k 32 with hk | hk
  · cases x.getLsbD k <;> simp [hk]
  · simp [BitVec.getLsbD_of_ge _ _ hk]

theorem getLsbD_maj (x y z : Word) (k : Nat) : (maj x y z).getLsbD k =
    decide (2 ≤ (x.getLsbD k).toNat + (y.getLsbD k).toNat + (z.getLsbD k).toNat) := by
  rw [maj, BitVec.getLsbD_xor, BitVec.getLsbD_xor, BitVec.getLsbD_and, BitVec.getLsbD_and, BitVec.getLsbD_and]
  cases x.getLsbD k <;> cases y.getLsbD k <;> cases z.getLsbD k <;> rfl

/-- The word of 32 ones has a 1 at each of its bits. -/
theorem getLsbD_ones {k : Nat} (hk : k < 32) : (0xFFFFFFFF : Word).getLsbD k = true := by
  rw [show (0xFFFFFFFF : Word) = BitVec.allOnes 32 from rfl, BitVec.getLsbD_allOnes]
  exact decide_eq_true hk

theorem ch_zero (y z : Word) : ch 0 y z = z :=
  BitVec.eq_of_getLsbD_eq fun k _ => by rw [getLsbD_ch, BitVec.ofNat_eq_ofNat, BitVec.getLsbD_zero]; rfl

theorem ch_ones (y z : Word) : ch 0xFFFFFFFF y z = y :=
  BitVec.eq_of_getLsbD_eq fun k hk => by rw [getLsbD_ch, getLsbD_ones hk, if_pos rfl]

theorem ch_self (x y : Word) : ch x y y = y :=
  BitVec.eq_of_getLsbD_eq fun k _ => by rw [getLsbD_ch, ite_self]

/-- Settles O13: the corner cases follow from the bits. -/
theorem chSelectsBits : Obligations.ChSelectsBits :=
  ⟨fun _ _ _ => rfl, getLsbD_ch, ch_zero, ch_ones, ch_self, by decide⟩

/-- Two equal words are a majority. -/
theorem maj_self (x z : Word) : maj x x z = x := by
  rw [maj, BitVec.and_self, BitVec.xor_assoc, BitVec.xor_self, BitVec.xor_zero]

theorem maj_zero (y z : Word) : maj 0 y z = y &&& z := by
  simp [maj]

theorem maj_ones (y z : Word) : maj 0xFFFFFFFF y z = y ||| z :=
  BitVec.eq_of_getLsbD_eq fun k hk => by
    rw [getLsbD_maj, getLsbD_ones hk, BitVec.getLsbD_or]
    cases y.getLsbD k <;> cases z.getLsbD k <;> rfl

/-- The majority of three does not depend on their order: the two transpositions generate every permutation. -/
theorem maj_symm (x y z : Word) : maj x y z = maj y x z ∧ maj x y z = maj x z y :=
  ⟨BitVec.eq_of_getLsbD_eq fun k _ => by rw [getLsbD_maj, getLsbD_maj, Nat.add_comm (x.getLsbD k).toNat],
    BitVec.eq_of_getLsbD_eq fun k _ => by rw [getLsbD_maj, getLsbD_maj, Nat.add_right_comm]⟩

/-- Settles O14: the corner cases and the symmetry follow from the bits. -/
theorem majIsTheMajority : Obligations.MajIsTheMajority :=
  ⟨fun _ _ _ => rfl, getLsbD_maj, maj_self, maj_zero, maj_ones, maj_symm, by decide⟩

/-! ### The four sigma functions (R69 to R72) -/

/-- The library's rotation is the one R8 writes out. -/
theorem rotateRight_eq_rotr {n : Nat} (hn : n < 32) (x : Word) : x.rotateRight n = rotr n x := by
  rw [BitVec.rotateRight_def, Nat.mod_eq_of_lt hn, rotr]

theorem bsig0_eq (x : Word) : bsig0 x = rotr 2 x ^^^ rotr 13 x ^^^ rotr 22 x := by
  simp only [bsig0, rotateRight_eq_rotr, Nat.reduceLT]

theorem bsig1_eq (x : Word) : bsig1 x = rotr 6 x ^^^ rotr 11 x ^^^ rotr 25 x := by
  simp only [bsig1, rotateRight_eq_rotr, Nat.reduceLT]

theorem ssig0_eq (x : Word) : ssig0 x = rotr 7 x ^^^ rotr 18 x ^^^ (x >>> 3) := by
  simp only [ssig0, rotateRight_eq_rotr, Nat.reduceLT]

theorem ssig1_eq (x : Word) : ssig1 x = rotr 17 x ^^^ rotr 19 x ^^^ (x >>> 10) := by
  simp only [ssig1, rotateRight_eq_rotr, Nat.reduceLT]

/-- Settles O15: each rotation of the formulas is the one of R8. -/
theorem sigmaFunctions : Obligations.SigmaFunctions :=
  ⟨bsig0_eq, bsig1_eq, ssig0_eq, ssig1_eq, by decide, by decide, by decide, by decide⟩

end Sys2Proof.Machine
end

section
/-! PROOFS, family 40_compression: the constants are roots of primes (R73, R74). -/

namespace Sys2Proof.Machine

/-- The primes below `n`, each recognized by its least factor, which the kernel evaluates fast. -/
def primesBelow (n : Nat) : List Nat := (List.range n).filter fun p => decide (2 ≤ p ∧ p.minFac = p)

theorem filter_prime_eq_primesBelow (n : Nat) :
    (List.range n).filter (fun p => decide p.Prime) = primesBelow n := by
  simp only [primesBelow, Nat.prime_def_minFac]

theorem length_primesBelow_20 : (primesBelow 20).length = 8 := by decide +kernel

theorem length_primesBelow_312 : (primesBelow 312).length = 64 := by decide +kernel

theorem roundConstants_eq_map_nthRoot :
    roundConstants = (primesBelow 312).map fun p => BitVec.ofNat 32 (Nat.nthRoot 3 (p * 2 ^ 96)) := by
  decide +kernel

theorem toList_iv_eq_map_sqrt :
    iv.toList = (primesBelow 20).map fun p => BitVec.ofNat 32 (Nat.sqrt (p * 2 ^ 64)) := by
  decide +kernel

/-- Settles O16: `c` is the integer cube root of `p * 2^96`. -/
theorem roundConstantsAreCubeRoots : Obligations.RoundConstantsAreCubeRoots := by
  rw [Obligations.RoundConstantsAreCubeRoots, filter_prime_eq_primesBelow]
  refine ⟨length_roundConstants, length_primesBelow_312, fun i hi => ?_⟩
  obtain ⟨p, hp⟩ : ∃ p, (primesBelow 312)[i]? = some p :=
    ⟨_, List.getElem?_eq_getElem (length_primesBelow_312.symm ▸ hi)⟩
  refine ⟨_, _, hp, Nat.pow_nthRoot_le (.inl (by decide : 3 ≠ 0)), Nat.lt_pow_nthRoot_add_one (by decide) _, ?_⟩
  rw [roundConstants_eq_map_nthRoot, List.getElem?_map, hp, Option.map_some]

/-- Settles O17: `c` is the integer square root of `p * 2^64`; reset and `INIT` load `IV` itself. -/
theorem initialValuesAreSquareRoots : Obligations.InitialValuesAreSquareRoots := by
  rw [Obligations.InitialValuesAreSquareRoots, filter_prime_eq_primesBelow]
  refine ⟨length_primesBelow_20, fun i => ?_, rfl, fun s he => ⟨_, exec_performed he rfl, initHash_h s⟩⟩
  obtain ⟨p, hp⟩ : ∃ p, (primesBelow 20)[i.val]? = some p :=
    ⟨_, List.getElem?_eq_getElem (length_primesBelow_20.symm ▸ i.isLt)⟩
  refine ⟨_, _, hp, Nat.sqrt_le' _, Nat.lt_succ_sqrt' _, Option.some.inj ?_⟩
  calc some iv[i]
    _ = iv.toList[i.val]? := by simp
    _ = _ := by rw [toList_iv_eq_map_sqrt, List.getElem?_map, hp, Option.map_some]

end Sys2Proof.Machine
end

section
/-! PROOFS, family 40_compression: the message schedule (R75, R39). -/

namespace Sys2Proof.Machine

/-! ### The first 16 words (R39) -/

/-- `fromBE32` is the number its four bytes write (R9). -/
theorem toNat_fromBE32 (b0 b1 b2 b3 : Byte) : (fromBE32 b0 b1 b2 b3).toNat = bigEndian [b0, b1, b2, b3] := by
  have hcat {n : Nat} (x : BitVec n) (b : Byte) : (x ++ b).toNat = x.toNat * 256 + b.toNat := by
    rw [BitVec.toNat_append, ← Nat.shiftLeft_add_eq_or_of_lt b.isLt, Nat.shiftLeft_eq]
  simp only [fromBE32, hcat, bigEndian, List.foldl, Nat.zero_mul, Nat.zero_add]

/-- Four bytes of a sequence from index `a` on, one by one. -/
theorem take_four_drop (bytes : List Byte) (a : Nat) (h : a + 3 < bytes.length) :
    (bytes.drop a).take 4 = [bytes[a], bytes[a + 1], bytes[a + 2], bytes[a + 3]] := by
  rw [List.drop_eq_getElem_cons (by omega), List.drop_eq_getElem_cons (by omega),
    List.drop_eq_getElem_cons (by omega), List.drop_eq_getElem_cons h]
  rfl

/-- Word `t` of a block is the number its bytes `4t .. 4t+3` write (R39). -/
theorem toNat_getD_blockWords (blk : List Byte) (t : Nat) (h : 4 * t + 3 < blk.length) :
    ((blockWords blk).getD t 0).toNat = bigEndian ((blk.drop (4 * t)).take 4) := by
  rw [List.getD_eq_getElem?_getD, getElem?_blockWords t blk h, Option.getD_some, toNat_fromBE32,
    take_four_drop blk (4 * t) h]

/-! ### The recurrence (R75) -/

/-- A longer schedule has the words of a shorter one. -/
theorem getD_extendSchedule_le {m n t : Nat} (w : List Word) (hmn : m ≤ n) (ht : t < w.length + m) :
    (extendSchedule n w).getD t 0 = (extendSchedule m w).getD t 0 := by
  obtain ⟨k, rfl⟩ := Nat.exists_eq_add_of_le hmn
  rw [extendSchedule_add, List.getD_eq_getElem?_getD, getElem?_extendSchedule_lt _ _ _ (by simpa using ht),
    List.getD_eq_getElem?_getD]

/-- Each word past the first ones follows the recurrence, if the 16 words before it are there. -/
theorem getD_extendSchedule_recurrence (w : List Word) {n t : Nat} (hw : 16 ≤ w.length) (ht : w.length ≤ t)
    (htn : t < w.length + n) : (extendSchedule n w).getD t 0 =
      ssig1 ((extendSchedule n w).getD (t - 2) 0) + (extendSchedule n w).getD (t - 7) 0 +
        ssig0 ((extendSchedule n w).getD (t - 15) 0) + (extendSchedule n w).getD (t - 16) 0 := by
  obtain ⟨m, rfl⟩ := Nat.exists_eq_add_of_le ht
  have hm : m < n := by omega
  rw [List.getD_eq_getElem?_getD, getElem?_extendSchedule_ge n w m hm, Option.getD_some, scheduleWord,
    length_extendSchedule]
  have hbefore (k : Nat) (hk : 0 < k) : (extendSchedule m w).getD (w.length + m - k) 0 =
      (extendSchedule n w).getD (w.length + m - k) 0 :=
    (getD_extendSchedule_le w hm.le (by omega)).symm
  rw [hbefore 2 (by decide), hbefore 7 (by decide), hbefore 15 (by decide), hbefore 16 (by decide)]

/-! ### The all-zero block and the block of "abc" (R75) -/

theorem scheduleWord_replicate_zero (m : Nat) : scheduleWord (List.replicate m 0) = 0 := by
  simp only [scheduleWord, List.getD_eq_getElem?_getD, List.getElem?_getD_replicate_default_eq]
  decide

/-- Every term of the recurrence over zero words is zero. -/
theorem extendSchedule_replicate_zero (n : Nat) : ∀ m : Nat,
    extendSchedule n (List.replicate m 0) = List.replicate (m + n) 0 := by
  induction n with
  | zero => exact fun m => rfl
  | succ n ih =>
    intro m
    rw [extendSchedule, scheduleWord_replicate_zero, ← List.replicate_succ', ih, Nat.add_right_comm]
    rfl

theorem schedule_zeros : schedule (zeros 64) = List.replicate 64 0 :=
  extendSchedule_replicate_zero 48 16

theorem schedule_abcBlock : (schedule abcBlock).getD 0 0 = 0x61626380 ∧
    (∀ t, 1 ≤ t → t ≤ 14 → (schedule abcBlock).getD t 1 = 0) ∧
    (schedule abcBlock).getD 15 0 = 0x00000018 ∧ (schedule abcBlock).getD 16 0 = 0x61626380 ∧
    (schedule abcBlock).getD 17 0 = 0x000F0000 ∧ (schedule abcBlock).getD 18 0 = 0x7DA86405 ∧
    (schedule abcBlock).getD 19 0 = 0x600003C6 ∧ (schedule abcBlock).getD 63 0 = 0x12B1EDEB := by
  decide +kernel

/-- Settles O18: the words of the block stay the first ones, and each later word is grown from those before it. -/
theorem scheduleFollowsTheRecurrence : Obligations.ScheduleFollowsTheRecurrence := by
  refine ⟨fun blk hblk => ?_, fun t ht => ?_, schedule_abcBlock⟩
  · have hwords : (blockWords blk).length = 16 := length_blockWords 16 blk hblk
    refine ⟨length_schedule hblk, fun t ht => ?_, fun t h16 h64 => ?_⟩
    · rw [schedule, getD_extendSchedule_le _ (Nat.zero_le 48) (by omega)]
      exact toNat_getD_blockWords blk t (by omega)
    · exact getD_extendSchedule_recurrence _ (by omega) (by omega) (by omega)
  · rw [schedule_zeros, List.getD_replicate _ ht]

end Sys2Proof.Machine
end

section
/-! PROOFS, family 40_compression: one round (R76), and `COMPRESS` as 64 rounds and the feed-forward (R77). -/

namespace Sys2Proof.Machine

/-- Settles O19: the new words as R76 writes them. -/
theorem roundStep : Obligations.RoundStep :=
  ⟨fun _ _ _ _ _ _ _ _ _ _ => ⟨_, _, rfl, rfl, rfl⟩, by decide⟩

/-- The working words after the first `t` of the 64 rounds (R77). -/
def workingAfter (h : Vector Word 8) (blk : List Byte) (t : Nat) : Working :=
  rounds ((roundConstants.zip (schedule blk)).take t) (workingOf h)

theorem workingAfter_zero (h : Vector Word 8) (blk : List Byte) : workingAfter h blk 0 = workingOf h := rfl

/-- There is one pair `(K[t], W[t])` for each of the 64 rounds. -/
theorem length_zip_schedule {blk : List Byte} (hblk : blk.length = 64) :
    (roundConstants.zip (schedule blk)).length = 64 := by
  rw [List.length_zip, length_roundConstants, length_schedule hblk, Nat.min_self]

/-- Round `t` takes `K[t]` and `W[t]`. -/
theorem workingAfter_succ (h : Vector Word 8) {blk : List Byte} (hblk : blk.length = 64) {t : Nat} (ht : t < 64) :
    workingAfter h blk (t + 1) =
      round (roundConstants.getD t 0) ((schedule blk).getD t 0) (workingAfter h blk t) := by
  have hk : t < roundConstants.length := length_roundConstants.symm ▸ ht
  have hw : t < (schedule blk).length := (length_schedule hblk).symm ▸ ht
  have hkw : t < (roundConstants.zip (schedule blk)).length := (length_zip_schedule hblk).symm ▸ ht
  rw [workingAfter, workingAfter, ← List.take_append_getElem hkw, List.getElem_zip, rounds_append,
    List.getD_eq_getElem _ _ hk, List.getD_eq_getElem _ _ hw]

/-- There is no round after the 64th. -/
theorem compress_eq_feedForward (h : Vector Word 8) {blk : List Byte} (hblk : blk.length = 64) :
    compress h blk = feedForward h (workingAfter h blk 64) := by
  rw [compress, workingAfter, List.take_of_length_le (length_zip_schedule hblk).le]

theorem compress_iv_zeros : (compress iv (zeros 64)).toList =
    [0xda5698be, 0x17b9b469, 0x62335799, 0x779fbeca, 0x8ce5d491, 0xc0d26243, 0xbafef9ea, 0x1837a9d8] := by
  decide +kernel

theorem compress_zero_zeros : (compress (Vector.replicate 8 0) (zeros 64)).toList =
    [0x7ca51614, 0x425c3ba8, 0xce54dd2f, 0xc2020ae7, 0xb6e574d1, 0x98136d0f, 0xae7e26cc, 0xbf0be7a6] := by
  decide +kernel

theorem compress_iv_abcBlock : (compress iv abcBlock).toList =
    [0xba7816bf, 0x8f01cfea, 0x414140de, 0x5dae2223, 0xb00361a3, 0x96177a9c, 0xb410ff61, 0xf20015ad] := by
  decide +kernel

/-- Settles O20: `v t` is the working words after `t` rounds. -/
theorem compressRunsSixtyFourRounds : Obligations.CompressRunsSixtyFourRounds :=
  ⟨fun h blk hblk => ⟨workingAfter h blk, workingAfter_zero h blk, fun _ ht => workingAfter_succ h hblk ht,
      compress_eq_feedForward h hblk⟩,
    compress_iv_zeros, compress_zero_zeros, compress_iv_abcBlock⟩

end Sys2Proof.Machine
end

section
/-! PROOFS, family 41_hash_state_machine: `INIT` (R82), and `ABSORB` and `SEP` with their two faults (R83, R84). -/

namespace Sys2Proof.Machine

variable {s : State}

/-- A command that reads nothing completes with `(0, 0x00)` once its check has passed (R54, R119 line 7). -/
theorem exec_completes {i : Instr} (he : s.err = false) (hcheck : checkOf i s = none) (hdata : dataOf i s = 0x00#8) :
    exec i s = .next { bodyOf i s with resp := some 0 } := by
  rw [exec_performed he hcheck, performOf, hdata, respond_zero]

/-! ### `INIT` (R82) -/

/-- `INIT` has no check of its own, and its body writes the registers of the hash state but `BUF` (R80, R82). -/
theorem exec_init (he : s.err = false) :
    exec .init s = .next { s with h := iv, len := 0, bufLen := 0, fin := false, resp := some 0 } :=
  exec_completes he rfl rfl

/-- Settles O21: the state `INIT` answers is unfaulted and holds already what a second `INIT` writes. -/
theorem initEmptiesTheHashState : Obligations.InitEmptiesTheHashState := by
  refine ⟨formatZWord_of_formatZ rfl, fun s he => exec_init he, fun s t he ht => ?_, exec_init rfl⟩
  cases (exec_init he).symm.trans ht
  exact exec_init he

/-! ### `ABSORB` (R83) -/

/-- The body of an append with its response appends the byte as R83 says. -/
theorem appended_appendByte (b : Byte) (s : State) : Appended b s { appendByte b s with resp := some 0 } where
  len := appendByte_len b s
  buf j := (congrArg (·[j]) (appendByte_buf b s)).trans (getElem_storeByte b s j j.isLt)
  full hfull := by rw [appendByte_buf]; exact appendByte_full b hfull
  partly := appendByte_partly b
  frame := by rw [appendByte_eq]

/-- A finalized state admits no append (R125). -/
theorem exec_absorb_finalized (he : s.err = false) (hfin : s.fin = true) (b : Byte) :
    exec (.absorb b) s = .next (faulted 2 s) := by
  have hcheck : checkOf (.absorb b) s = some .phase := if_pos hfin
  exact exec_fault he hcheck

/-- A message of `MAXLEN` bytes admits no append (R128). -/
theorem exec_absorb_longest (he : s.err = false) (hfin : s.fin = false) (hlen : s.len = s.config.maxLen) (b : Byte) :
    exec (.absorb b) s = .next (faulted 6 s) := by
  have hcheck : checkOf (.absorb b) s = some .length := by
    simp [checkOf, appendCheck, hfin, hlen]
  exact exec_fault he hcheck

/-- Settles O22: the three outcomes of the append's check. -/
theorem absorbAppendsItsByte : Obligations.AbsorbAppendsItsByte := fun b s he =>
  ⟨fun hfin hroom => ⟨_, exec_absorb he hfin hroom b, appended_appendByte b s⟩,
    fun hfin => exec_absorb_finalized he hfin b, fun hfin hlen => exec_absorb_longest he hfin hlen b⟩

/-! ### `SEP` (R84) -/

/-- `SEP` is `ABSORB` of the separator byte (R84). -/
theorem exec_sep (s : State) : exec .sep s = exec (.absorb 0x7C) s := rfl

/-- Settles O23: what holds of `ABSORB` of any byte holds of `SEP`. -/
theorem sepAppendsTheSeparator : Obligations.SepAppendsTheSeparator :=
  ⟨formatZWord_of_formatZ rfl, exec_sep,
    fun s he hfin hroom =>
      ⟨_, (exec_sep s).trans (exec_absorb he hfin hroom 0x7C), appended_appendByte 0x7C s⟩,
    fun s he hfin => (exec_sep s).trans (exec_absorb_finalized he hfin 0x7C),
    fun s he hfin hlen => (exec_sep s).trans (exec_absorb_longest he hfin hlen 0x7C)⟩

end Sys2Proof.Machine
end

section
/-! PROOFS, family 41_hash_state_machine: the padded tail byte by byte (R85), and the blocks of a padded message
(R90). -/

namespace Sys2Proof.Machine

variable {s : State}

/-! ### The length field (R85, R38) -/

/-- Byte `j` of a 64-bit value as a number (R9). -/
theorem toNat_byteOfDouble (v : BitVec 64) (j : Nat) :
    (byteOfDouble v j).toNat = v.toNat / 2 ^ (56 - 8 * j) % 256 := by
  rw [byteOfDouble, BitVec.extractLsb'_toNat, Nat.shiftRight_eq_div_pow]

/-- `BE64(v)` writes the number `v` (R9). -/
theorem bigEndian_be64 (v : BitVec 64) : bigEndian (be64 v) = v.toNat := by
  have := v.isLt
  simp only [be64, bigEndian, List.foldl, toNat_byteOfDouble]
  omega

/-! ### The padded tail (R85) -/

/-- With at most 55 buffered bytes the padded tail is one block (R85). -/
theorem length_pad_one (h : s.bufLen.toNat ≤ 55) : (pad s).length = 64 := by
  rw [length_pad, padZeros, if_pos h]; omega

/-- With at least 56 buffered bytes the padded tail is two blocks (R85). -/
theorem length_pad_two (h : 56 ≤ s.bufLen.toNat) : (pad s).length = 128 := by
  have := s.bufLen.isLt
  rw [length_pad, padZeros, if_neg (by omega)]; omega

/-- There are as many meaningful bytes in `BUF` as `BUFLEN` says (R18, R19). -/
theorem length_buffered (s : State) : (memRead s.buf 0 s.bufLen.toNat).length = s.bufLen.toNat := by
  have := s.bufLen.isLt
  rw [length_memRead]; omega

/-- The padded tail begins with the buffered bytes. -/
theorem getElem?_pad_buffered (s : State) (j : Fin 64) (hj : j.val < s.bufLen.toNat) :
    (pad s)[j.val]? = some s.buf[j] := by
  simp only [pad, List.append_assoc]
  rw [List.getElem?_append_left (by rwa [length_buffered]), getElem?_memRead _ _ _ _ hj]
  simp

/-- Behind the buffered bytes stands 0x80. -/
theorem getElem?_pad_marker (s : State) : (pad s)[s.bufLen.toNat]? = some 0x80 := by
  simp only [pad, List.append_assoc]
  rw [List.getElem?_append_right (length_buffered s).le, length_buffered, Nat.sub_self]
  rfl

/-- Between 0x80 and the length field there are only zero bytes. -/
theorem getElem?_pad_zeros (s : State) {j : Nat} (hlow : s.bufLen.toNat < j) (hhigh : j + 8 < (pad s).length) :
    (pad s)[j]? = some 0x00 := by
  rw [length_pad] at hhigh
  have hhead : (memRead s.buf 0 s.bufLen.toNat ++ [0x80#8]).length = s.bufLen.toNat + 1 := by
    rw [List.length_append, length_buffered, List.length_singleton]
  rw [pad, List.append_assoc, List.getElem?_append_right (by omega), hhead,
    List.getElem?_append_left (by rw [length_zeros]; omega), zeros,
    List.getElem?_replicate_of_lt (by omega)]
  rfl

/-- The last eight bytes of the padded tail are the bit length. -/
theorem drop_pad (s : State) : (pad s).drop ((pad s).length - 8) = be64 (bitLength s.len) := by
  rw [pad, List.length_append, length_be64, Nat.add_sub_cancel, List.drop_left]

/-- The padded tail of the message "abc" (R85). -/
theorem pad_abc (hbufLen : s.bufLen = 3) (hlen : s.len = 3) (hbuf : memRead s.buf 0 3 = [0x61, 0x62, 0x63]) :
    pad s = abcBlock := by
  have h3 : s.bufLen.toNat = 3 := by rw [hbufLen]; rfl
  rw [pad, h3, hbuf, hlen]
  rfl

/-- Settles O24, part by part of the padded tail. -/
theorem padBuildsTheFinalBlocks : Obligations.PadBuildsTheFinalBlocks := by
  refine ⟨fun s => ⟨?_, getElem?_pad_buffered s, getElem?_pad_marker s, fun j => getElem?_pad_zeros s, ?_⟩,
    fun s => pad_abc⟩
  · split
    case isTrue h => exact length_pad_one h
    case isFalse h => exact length_pad_two (by omega)
  · rw [drop_pad, bigEndian_be64, toNat_bitLength]

/-! ### The blocks of a padded message (R90, R91) -/

/-- Settles O31: the padded message is a whole number of blocks, so cutting it leaves no byte out. -/
theorem paddedMessageIsCutIntoBlocks : Obligations.PaddedMessageIsCutIntoBlocks := by
  intro m
  have hlen := length_paddedMessage m
  have hblocks : (paddedMessage m).length / 64 = (m.length + 8) / 64 + 1 := by omega
  rw [messageBlocks, hblocks]
  refine ⟨length_cutBlocks _ _, length_of_mem_cutBlocks _ _ hlen.ge, ?_⟩
  rw [flatten_cutBlocks, List.take_of_length_le hlen.le]

end Sys2Proof.Machine
end

section
/-! PROOFS, family 41_hash_state_machine: `FINAL` (R87), and `INIT`, one `ABSORB` per byte, `FINAL` as `Hash`
(R90). -/

namespace Sys2Proof.Machine

variable {s : State}

/-- `FINAL` is performed in the absorbing phase (R87, R125). -/
theorem exec_final (he : s.err = false) (hfin : s.fin = false) :
    exec .final s = .next { finalizeBody s with resp := some 0 } :=
  exec_completes he (finalizeCheck_eq_none.2 hfin) rfl

/-- A finalized state is not finalized again (R125). -/
theorem exec_final_finalized (he : s.err = false) (hfin : s.fin = true) :
    exec .final s = .next (faulted 2 s) := by
  have hcheck : checkOf .final s = some .phase := if_pos hfin
  exact exec_fault he hcheck

/-- The body of `FINAL` with its response finalizes as R87 says. -/
theorem finalized_finalizeBody (s : State) : Finalized s { finalizeBody s with resp := some 0 } where
  one h := compressTail_one s.h (length_pad_one h)
  two h := compressTail_two s.h (length_pad_two h)
  digest := finalizeBody_digest s
  frame := rfl

/-- Settles O25: the two outcomes of the check of `FINAL`. -/
theorem finalLatchesTheDigest : Obligations.FinalLatchesTheDigest :=
  ⟨formatZWord_of_formatZ rfl, fun s he hfin => ⟨_, exec_final he hfin, finalized_finalizeBody s⟩,
    fun _ => exec_final_finalized⟩

/-- Settles O30: `INIT` and the bytes leave the hash state of the message, and `FINAL` hashes it. -/
theorem hashIsInitAbsorbFinal : Obligations.HashIsInitAbsorbFinal := by
  intro s m he hroom
  obtain ⟨t, ht, habsorbs, herr, -⟩ := runAll_init_expandMsg he hroom
  refine ⟨{ finalizeBody t with resp := some 0 }, ?_, habsorbs.finalizeBody_digest, herr, rfl, rfl, rfl⟩
  exact (runAll_append _ _ _ _ ht).trans (runAll_cons (exec_final herr habsorbs.fin) [])

end Sys2Proof.Machine
end

section
/-! PROOFS, family 42_iterated_derivation: `REHASH` (R95), alone and as `INIT`, 32 `ABSORB`s, `FINAL`. -/

namespace Sys2Proof.Machine

variable {s : State}

/-! ### The effect of `REHASH` (R95) -/

/-- `REHASH` is performed in the finalized phase (R95, R125). -/
theorem exec_rehash (he : s.err = false) (hfin : s.fin = true) :
    exec .rehash s = .next { rehashBody s with resp := some 0 } :=
  exec_completes he (rehashCheck_eq_none.2 hfin) rfl

/-- There is nothing to rehash while a message is absorbed (R125). -/
theorem exec_rehashes_absorbing {i : Instr} (hi : i.rehashes = true) (he : s.err = false) (hfin : s.fin = false) :
    exec i s = .next (faulted 2 s) := by
  have hphase : rehashCheck s = some .phase := if_neg (by rw [hfin]; decide)
  have hcheck : checkOf i s = some .phase := by
    cases i with
    | rehash | iter => exact hphase
    | nop | init | absorb _ | sep | final | derive | encode | gen | rddig _ | rdpw _ | rdst => cases hi
  exact exec_fault he hcheck

/-- A rehash leaves the old digest in `BUF[0..31]` and the other cells of `BUF` as they were (R95). -/
theorem getElem_rehashBody_buf (s : State) (j : Nat) (hj : j < 64) :
    (rehashBody s).buf[j] = if h : j < 32 then s.digest[j] else s.buf[j] := by
  simp only [rehashBody_buf, memRead_all, getElem_memWrite, Vector.length_toList]
  by_cases h : j < 32
  · rw [dif_pos ⟨Nat.zero_le j, by omega⟩, dif_pos h]; simp
  · rw [dif_neg (by omega), dif_neg h]

/-- The body of `REHASH` with its response rehashes as R95 says. -/
theorem rehashed_rehashBody (s : State) : Rehashed s { rehashBody s with resp := some 0 } where
  h := by rw [rehashBody_h, pad_loadDigest]; rfl
  digest := rehashBody_digest s
  buf j := getElem_rehashBody_buf s j j.isLt
  frame := rfl

/-- Settles O32: the two outcomes of the check of `REHASH`. -/
theorem rehashHashesTheDigest : Obligations.RehashHashesTheDigest :=
  ⟨formatZWord_of_formatZ rfl,
    fun s he hfin =>
      ⟨_, exec_rehash he hfin, rehashed_rehashBody s, rehashBody_digest_eq_hashMessage s⟩,
    fun _ => exec_rehashes_absorbing rfl⟩

/-! ### The same by `INIT`, `ABSORB` and `FINAL` (R95) -/

/-- Bytes that do not complete a block are only stored and counted (R83). -/
theorem processBytes_partly (m : List Byte) : ∀ s : State, s.bufLen.toNat + m.length < 64 →
    processBytes m s = { s with buf := memWrite s.buf s.bufLen.toNat m
                                len := s.len + BitVec.ofNat 61 m.length
                                bufLen := s.bufLen + BitVec.ofNat 6 m.length } := by
  induction m with
  | nil => intro s _; simp [processBytes, memWrite]
  | cons b m ih =>
    intro s hroom
    rw [List.length_cons] at hroom
    have hpartly : s.bufLen ≠ 63#6 := fun h => by rw [h, BitVec.toNat_ofNat] at hroom; omega
    have hcount : (s.bufLen + 1).toNat = s.bufLen.toNat + 1 := by
      rw [← appendByte_bufLen b s, toNat_appendByte_bufLen]; omega
    have happend : appendByte b s =
        { s with buf := storeByte b s, len := s.len + 1, bufLen := s.bufLen + 1 } := if_neg hpartly
    have hrest := ih (appendByte b s) (by rw [appendByte_bufLen, hcount]; omega)
    rw [happend, hcount] at hrest
    rw [List.length_cons, Nat.add_comm m.length 1, BitVec.ofNat_add, BitVec.ofNat_add, ← BitVec.add_assoc,
      ← BitVec.add_assoc]
    exact (congrArg (processBytes m) happend).trans hrest

/-- `INIT` and one `ABSORB` per digest byte load the digest as its own message (R95). -/
theorem processBytes_digest_initHash (s : State) :
    processBytes s.digest.toList (initHash s) = { loadDigest s with fin := false } := by
  have hroom : (initHash s).bufLen.toNat + s.digest.toList.length < 64 := by rw [initHash_bufLen]; simp
  rw [processBytes_partly _ _ hroom, Vector.length_toList, loadDigest, memRead_all]
  rfl

/-- A finalization sets the phase and reads no response, so after the absorbed digest it leaves what a rehash leaves
(R95). -/
theorem finalizeBody_loadDigest (s : State) :
    { finalizeBody { loadDigest s with fin := false, resp := some 0 } with resp := some 0 } =
      { rehashBody s with resp := some 0 } := rfl

/-- Settles O33: the commands load the digest as `REHASH` does, and a legal `MAXLEN` has room for its 32 bytes. -/
theorem rehashIsInitAbsorbFinal : Obligations.RehashIsInitAbsorbFinal := by
  intro s he hfin hlegal
  have hinit : exec .init s = .next { initHash s with resp := some 0 } := exec_completes he rfl rfl
  have hroom : (initHash s).len.toNat + s.digest.toList.length ≤ s.config.maxLen.toNat := by
    rw [initHash_len, Vector.length_toList]; exact le_trans (by decide) hlegal
  have habsorb := processIsAbsorbPerByte s.digest.toList { initHash s with resp := some 0 } he rfl hroom
  rw [processBytes_withResp, ite_self, processBytes_digest_initHash] at habsorb
  have hfinal := exec_final (s := { loadDigest s with fin := false, resp := some 0 }) he rfl
  calc exec .rehash s
    _ = runAll [.final] { loadDigest s with fin := false, resp := some 0 } := by
      rw [exec_rehash he hfin, runAll_cons hfinal, finalizeBody_loadDigest, runAll]
    _ = runAll (expandMsg s.digest.toList ++ [.final]) { initHash s with resp := some 0 } :=
      (runAll_append _ _ _ _ habsorb).symm
    _ = runAll (expandLine (.hash s.digest.toList)) s := (runAll_cons hinit _).symm

end Sys2Proof.Machine
end

section
/-! PROOFS, family 42_iterated_derivation: `ITER` and `DERIVE` (R96, R97), and the invocations of `Hash` in `derive`
(R94, R98, R100). -/

namespace Sys2Proof.Machine

variable {s : State}

/-! ### `ITER` (R96) -/

/-- `ITER` is performed in the finalized phase (R96, R125). -/
theorem exec_iter (he : s.err = false) (hfin : s.fin = true) :
    exec .iter s = .next { iterBody s with resp := some 0 } :=
  exec_completes he (rehashCheck_eq_none.2 hfin) rfl

/-- Each of a positive number of `REHASH` commands finds the finalized state the one before it left. -/
theorem runAll_replicate_rehash (n : Nat) : ∀ {s : State}, s.err = false → s.fin = true →
    runAll (List.replicate (n + 1) .rehash) s = .next { rehashTimes (n + 1) s with resp := some 0 } := by
  induction n with
  | zero => exact fun he hfin => runAll_cons (exec_rehash he hfin) []
  | succ n ih =>
    intro s he hfin
    rw [List.replicate_succ, runAll_cons (exec_rehash he hfin),
      ih (s := { rehashBody s with resp := some 0 }) he rfl, rehashTimes_withResp]
    rfl

/-- `ITER` hashes the raw digest 1000 times (R96). -/
theorem iterBody_digest_eq_hashTimes (s : State) :
    (iterBody s).digest.toList = hashTimes iterCount s.digest.toList := by
  rw [iterBody_eq, rehashTimes_digest]

/-- Settles O34: the body of `ITER` is that of `REHASH` 1000 times. -/
theorem iterIsAThousandRehashes : Obligations.IterIsAThousandRehashes := by
  refine ⟨formatZWord_of_formatZ rfl, fun s he hfin => ⟨?_, _, exec_iter he hfin, iterBody_digest_eq_hashTimes s,
    (iterBody_err s).trans he, iterBody_fin s, iterBody_dv s, iterBody_pv s, rfl⟩,
    fun _ => exec_rehashes_absorbing rfl⟩
  rw [exec_iter he hfin, iterBody_eq]
  exact (runAll_replicate_rehash 999 he hfin).symm

/-! ### `DERIVE` (R97) -/

/-- `DERIVE` is performed in the absorbing phase (R97, R125). -/
theorem exec_derive (he : s.err = false) (hfin : s.fin = false) :
    exec .derive s = .next { deriveBody s with resp := some 0 } :=
  exec_completes he (finalizeCheck_eq_none.2 hfin) rfl

/-- A finalized state is not derived from (R125). -/
theorem exec_derive_finalized (he : s.err = false) (hfin : s.fin = true) :
    exec .derive s = .next (faulted 2 s) := by
  have hcheck : checkOf .derive s = some .phase := if_pos hfin
  exact exec_fault he hcheck

/-- `FINAL` leaves the finalized state `ITER` needs (R97). -/
theorem runAll_final_iter (he : s.err = false) (hfin : s.fin = false) :
    runAll [.final, .iter] s = .next { deriveBody s with resp := some 0 } := by
  have hiter := exec_iter (s := { finalizeBody s with resp := some 0 }) he rfl
  rw [iterBody_withResp, ← deriveBody_eq_iterBody] at hiter
  exact (runAll_cons (exec_final he hfin) _).trans (runAll_cons hiter [])

/-- Settles O35: the body of `DERIVE` is that of `FINAL`, then that of `ITER`. -/
theorem deriveIsFinalThenIter : Obligations.DeriveIsFinalThenIter :=
  ⟨formatZWord_of_formatZ rfl,
    fun s he hfin =>
      ⟨(exec_derive he hfin).trans (runAll_final_iter he hfin).symm, _, exec_derive he hfin,
        (deriveBody_err s).trans he, deriveBody_fin s, deriveBody_dv s, deriveBody_pv s, rfl,
        fun _ h => h.deriveBody_digest⟩,
    fun _ => exec_derive_finalized⟩

/-! ### `derive` (R94, R98, R100) -/

/-- `hashTimes` iterates `Hash` (R94 step 3). -/
theorem hashTimes_eq_iterate (n : Nat) : ∀ d : List Byte, hashTimes n d = hashMessage^[n] d := by
  induction n with
  | zero => exact fun d => rfl
  | succ n ih => intro d; rw [hashTimes, ih, Function.iterate_succ_apply]

/-- Settles O36: the first invocation is on the Derivation Input, and 1000 more follow it. -/
theorem deriveMakes1001Invocations : Obligations.DeriveMakes1001Invocations := by
  intro ident sec
  rw [deriveDigest, hashTimes_eq_iterate]
  exact (Function.iterate_succ_apply hashMessage iterCount _).symm

/-- The digest and the password depend on the Derivation Input alone (R94, R106). -/
theorem derive_congr {ident sec ident' sec' : List Byte}
    (h : derivationInput ident sec = derivationInput ident' sec') :
    deriveDigest ident sec = deriveDigest ident' sec' ∧
      generatePassword ident sec = generatePassword ident' sec' := by
  have hdigest : deriveDigest ident sec = deriveDigest ident' sec' := by rw [deriveDigest, h, ← deriveDigest]
  exact ⟨hdigest, congrArg encodeDigest hdigest⟩

/-- Settles O38: a separator in the identifier reads as one in the secret. -/
theorem separatorIsNotEscaped : Obligations.SeparatorIsNotEscaped :=
  ⟨fun _ _ _ _ => derive_congr, fun x y sec => derive_congr (by simp [derivationInput, sepByte])⟩

end Sys2Proof.Machine
end

section
/-! PROOFS, family 43_output_encoder: the alphabet (R103), the encoding (R102, R108) and the symbols of a password
(R110). -/

namespace Sys2Proof.Machine

variable {i : Instr} {s : State}

/-! ### The alphabet (R103) -/

theorem nodup_alphabet : alphabet.Nodup := by decide

theorem getElem?_alphabet_lower : ∀ v < 26, alphabet[v]? = some (BitVec.ofNat 8 (0x61 + v)) := by decide

theorem getElem?_alphabet_upper : ∀ v < 26, alphabet[26 + v]? = some (BitVec.ofNat 8 (0x41 + v)) := by decide

theorem getElem?_alphabet_digit : ∀ v < 9, alphabet[52 + v]? = some (BitVec.ofNat 8 (0x31 + v)) := by decide

/-- Settles O39: the three ranges of the closed form, counted from their first entries, and the last three entries. -/
theorem alphabetTable : Obligations.AlphabetTable := by
  refine ⟨length_alphabet, nodup_alphabet, fun v h => getElem?_alphabet_lower v (by omega), fun v hlow hhigh => ?_,
    fun v hlow hhigh => ?_, rfl, rfl, rfl⟩
  · obtain ⟨k, rfl⟩ := Nat.exists_eq_add_of_le hlow
    rw [getElem?_alphabet_upper k (by omega), Nat.add_sub_cancel_left]
  · obtain ⟨k, rfl⟩ := Nat.exists_eq_add_of_le hlow
    rw [getElem?_alphabet_digit k (by omega), Nat.add_sub_cancel_left]

/-! ### The encoding (R102, R108) -/

/-- Two bytes have the same symbol exactly when their low six bits agree: no two entries of the alphabet are alike. -/
theorem symbolOf_eq_symbolOf_iff (b c : Byte) : symbolOf b = symbolOf c ↔ b.toNat % 64 = c.toNat % 64 := by
  have hlt : b.toNat % 64 < alphabet.length := by rw [length_alphabet]; omega
  rw [← Option.some_inj, ← getElem?_alphabet, ← getElem?_alphabet]
  exact List.getElem?_inj hlt nodup_alphabet

/-- Settles O40: two encodings are equal when their symbols are, pair by pair. -/
theorem encodingKeepsTheLowSixBits : Obligations.EncodingKeepsTheLowSixBits := by
  refine ⟨fun d => ⟨length_encodeDigest d, fun i b hb => ?_⟩, fun d d' => ?_⟩
  · rw [encodeDigest, List.getElem?_map, hb, getElem?_alphabet]; rfl
  · rw [encodeDigest, encodeDigest, ← List.forall₂_eq_eq_eq, ← List.forall₂_eq_eq_eq]
    simp only [List.forall₂_map_left_iff, List.forall₂_map_right_iff, symbolOf_eq_symbolOf_iff]

/-! ### The symbols of a password (R106, R110) -/

theorem mem_alphabet_of_mem_encodeDigest {d : List Byte} {c : Byte} (h : c ∈ encodeDigest d) : c ∈ alphabet := by
  obtain ⟨b, -, rfl⟩ := List.mem_map.1 h
  exact symbolOf_mem b

theorem length_hashTimes (n : Nat) : ∀ {d : List Byte}, d.length = 32 → (hashTimes n d).length = 32 := by
  induction n with
  | zero => exact id
  | succ n ih => exact fun _ => ih (length_hashMessage _)

/-- A derived digest has 32 bytes, leading zeros included (R94). -/
theorem length_deriveDigest (ident sec : List Byte) : (deriveDigest ident sec).length = 32 :=
  length_hashTimes iterCount (length_hashMessage _)

/-- The body of a command that writes `PW` leaves the encoding of `DIGEST` in it (R104, R105). -/
theorem bodyOf_pw_eq_encodeDigest (hw : i.writesPw = true) (s : State) :
    (bodyOf i s).pw.toList = encodeDigest (bodyOf i s).digest.toList := by
  cases i with
  | encode => exact toList_encoded_pw s
  | gen => exact toList_encoded_pw (deriveBody s)
  | nop | init | absorb _ | sep | final | rehash | iter | derive | rddig _ | rdpw _ | rdst => cases hw

/-- Settles O44: every password, as a value and in `PW`, is an encoding. -/
theorem passwordsAreThirtyTwoSymbols : Obligations.PasswordsAreThirtyTwoSymbols := by
  refine ⟨fun ident sec => ⟨?_, fun c => mem_alphabet_of_mem_encodeDigest⟩, fun i s t hw hexec ht k => ?_⟩
  · rw [generatePassword, length_encodeDigest, length_deriveDigest]
  · have hpw : t.pw.toList = encodeDigest t.digest.toList := by
      rw [exec_unfaulted hexec ht]
      exact bodyOf_pw_eq_encodeDigest hw s
    have hmem : t.pw[k] ∈ t.pw.toList := Vector.mem_toList_iff.2 (Vector.getElem_mem k.isLt)
    exact mem_alphabet_of_mem_encodeDigest (hpw ▸ hmem)

end Sys2Proof.Machine
end

section
/-! PROOFS, family 43_output_encoder: `ENCODE` (R104) and `GEN` (R105). -/

namespace Sys2Proof.Machine

variable {s : State}

/-! ### `ENCODE` (R104) -/

/-- `ENCODE` is performed where there is a digest, in either phase (R104, R126). -/
theorem exec_encode (he : s.err = false) (hdv : s.dv = true) :
    exec .encode s = .next { encodeBody s with resp := some 0 } :=
  exec_completes he (digestCheck_eq_none.2 hdv) rfl

/-- There is nothing to encode without a digest (R126). -/
theorem exec_encode_noDigest (he : s.err = false) (hdv : s.dv = false) :
    exec .encode s = .next (faulted 3 s) := by
  have hcheck : checkOf .encode s = some .noDigest := if_neg (by rw [hdv]; decide)
  exact exec_fault he hcheck

/-- Each cell of `PW` after `ENCODE` is the symbol of the digest byte at its index (R102, R104). -/
theorem getElem_encodeBody_pw (s : State) (j : Nat) (hj : j < 32) :
    (encodeBody s).pw[j] = symbolOf s.digest[j] := by
  simp [getElem_memWrite, encodeDigest, hj]

/-- The body of `ENCODE` with its response encodes as R104 says. -/
theorem encoded_encodeBody (s : State) : Encoded s { encodeBody s with resp := some 0 } where
  pw i := by
    refine (congrArg (alphabet[·]?) (toNat_mask6 s.digest[i])).trans ?_
    rw [getElem?_alphabet]
    exact congrArg some (getElem_encodeBody_pw s i i.isLt).symm
  frame := rfl

/-- Settles O41: the two outcomes of the check of `ENCODE`. -/
theorem encodeWritesThePassword : Obligations.EncodeWritesThePassword :=
  ⟨formatZWord_of_formatZ rfl, fun s he hdv => ⟨_, exec_encode he hdv, encoded_encodeBody s⟩,
    fun _ => exec_encode_noDigest⟩

/-! ### `GEN` (R105) -/

/-- `GEN` is performed in the absorbing phase (R105, R125). -/
theorem exec_gen (he : s.err = false) (hfin : s.fin = false) :
    exec .gen s = .next { genBody s with resp := some 0 } :=
  exec_completes he (finalizeCheck_eq_none.2 hfin) rfl

/-- A finalized state has no password generated from it (R125). -/
theorem exec_gen_finalized (he : s.err = false) (hfin : s.fin = true) :
    exec .gen s = .next (faulted 2 s) := by
  have hcheck : checkOf .gen s = some .phase := if_pos hfin
  exact exec_fault he hcheck

/-- `PW` after `GEN` is the encoding of the digest it derived (R105). -/
theorem toList_genBody_pw (s : State) : (genBody s).pw.toList = encodeDigest (deriveBody s).digest.toList :=
  toList_encoded_pw (deriveBody s)

/-- `DERIVE` leaves the digest `ENCODE` needs, and no fault (R105). -/
theorem exec_encode_derived (he : s.err = false) :
    exec .encode { deriveBody s with resp := some 0 } = .next { genBody s with resp := some 0 } :=
  exec_encode ((deriveBody_err s).trans he) (deriveBody_dv s)

/-- Settles O42: the body of `GEN` is that of `DERIVE`, then that of `ENCODE`, and `DERIVE` runs as `FINAL`, `ITER`. -/
theorem genIsDeriveThenEncode : Obligations.GenIsDeriveThenEncode := by
  refine ⟨formatZWord_of_formatZ rfl, fun s he hfin => ⟨?_, ?_, _, exec_gen he hfin, (genBody_err s).trans he,
    genBody_fin s, genBody_dv s, genBody_pv s, rfl, ?_⟩, fun _ => exec_gen_finalized⟩
  · rw [exec_gen he hfin, runAll_cons (exec_derive he hfin), runAll_cons (exec_encode_derived he), runAll]
  · have hparts := runAll_append [.final, .iter] [.encode] _ _ (runAll_final_iter he hfin)
    rw [exec_gen he hfin]
    exact (hparts.trans (runAll_cons (exec_encode_derived he) [])).symm
  · exact (toList_genBody_pw s).trans (by rw [genBody_digest])

end Sys2Proof.Machine
end

section
/-! PROOFS, family 43_output_encoder: the lines of `GENPW` and `RDPASS` compute and read out `generate_password`
(R63, R64, R106, R107). -/

namespace Sys2Proof.Machine

variable {s : State}

/-! ### `RDPASS` (R64) -/

/-- `RDPW` of a legal index responds with the byte of the password there and writes nothing (R113). -/
theorem exec_rdpw (he : s.err = false) (hpv : s.pv = true) {n : Nat} (hn : n < 32) :
    exec (.rdpw n) s = .next { s with resp := some (0#4 ++ s.pw[n]) } := by
  have hcheck : checkOf (.rdpw n) s = none := readPasswordCheck_eq_none.2 ⟨hpv, by omega⟩
  rw [exec_performed he hcheck, ← byteAt_eq s.pw n hn]
  rfl

/-- After the reads of indexes 0 to `n` the response is that of the last, and the state is otherwise as it was. -/
theorem runAll_rdpw_range (he : s.err = false) (hpv : s.pv = true) (n : Nat) (hn : n < 32) :
    runAll ((List.range (n + 1)).map .rdpw) s = .next { s with resp := some (0#4 ++ s.pw[n]) } := by
  induction n with
  | zero => exact runAll_cons (exec_rdpw he hpv hn) []
  | succ n ih =>
    rw [List.range_succ, List.map_append, runAll_append _ _ _ _ (ih (by omega))]
    exact runAll_cons (exec_rdpw (s := { s with resp := some (0#4 ++ s.pw[n]) }) he hpv hn) []

/-- The first `n` commands of `RDPASS` read the indexes below `n` (R64). -/
theorem take_expandLine_rdpass {n : Nat} (hn : n ≤ 32) :
    (expandLine .rdpass).take n = (List.range n).map .rdpw := by
  rw [expandLine, ← List.map_take, List.take_range, Nat.min_eq_left hn]

/-! ### `GENPW` (R63) -/

/-- `INIT` and the Derivation Input leave the hash state of that message, from every unfaulted state (R63, R93). -/
theorem runAll_init_expandInput {ident sec : List Byte} (he : s.err = false)
    (hroom : ident.length + 1 + sec.length ≤ s.config.maxLen.toNat) :
    ∃ t, runAll ([.init] ++ expandInput ident sec) s = .next t ∧ Absorbs t (derivationInput ident sec) ∧
      t.err = false ∧ t.ecode = s.ecode := by
  have hlength : (derivationInput ident sec).length ≤ s.config.maxLen.toNat := by
    rwa [derivationInput, List.length_append, List.length_append, List.length_singleton]
  obtain ⟨t, ht, hleft⟩ := runAll_init_expandMsg he hlength
  exact ⟨t, (runAll_cons_congr (runAll_expandInput ident sec) .init s).trans ht, hleft⟩

/-- `STATUS` says a digest and a password in the finalized phase, and no fault (R26). -/
theorem statusWord_encoded (hecode : s.ecode = 0) (herr : s.err = false) (hpv : s.pv = true) (hdv : s.dv = true)
    (hfin : s.fin = true) : statusWord s = 0x07 := by
  rw [statusWord, hecode, herr, hpv, hdv, hfin]
  rfl

/-- Settles O43: the hash state of the Derivation Input, then `GEN`, then the reads of what `GEN` left. -/
theorem commandLevelMeetsFunctionLevel : Obligations.CommandLevelMeetsFunctionLevel := by
  intro s ident sec hinv he hroom
  obtain ⟨t, ht, habsorbs, herr, hecode⟩ := runAll_init_expandInput he hroom
  have hdigest : (deriveBody t).digest.toList = deriveDigest ident sec := habsorbs.deriveBody_digest
  have herr' : (genBody t).err = false := (genBody_err t).trans herr
  have hecode' : (genBody t).ecode = 0 := (genBody_ecode t).trans (hecode.trans (hinv.noError he))
  refine ⟨{ genBody t with resp := some 0 }, ?_, herr', ?_, hdigest, ?_, fun k => ?_⟩
  · exact (runAll_append _ _ _ _ ht).trans (runAll_cons (exec_gen herr habsorbs.fin) [])
  · rw [generatePassword, ← hdigest]
    exact toList_genBody_pw t
  · exact statusWord_encoded hecode' herr' (genBody_pv t) (genBody_dv t) (genBody_fin t)
  · rw [take_expandLine_rdpass k.isLt]
    exact ⟨_, runAll_rdpw_range (s := { genBody t with resp := some 0 }) herr' (genBody_pv t) k k.isLt, rfl⟩

end Sys2Proof.Machine
end

section
/-! PROOFS, family 44_readout_and_system: `NOP` (R111), and `RDDIG` and `RDPW` with their two faults, validity before
index (R112, R113, R126, R127). -/

namespace Sys2Proof.Machine

variable {s : State}

/-! ### `NOP` (R111) -/

/-- Settles O45: `NOP` has no check of its own and an empty body. -/
theorem nopChangesNothing : Obligations.NopChangesNothing :=
  ⟨formatZWord_of_formatZ rfl, fun _ he => exec_completes he rfl rfl, fun _ he => exec_refused nofun he⟩

/-! ### `RDDIG` (R112) -/

/-- `RDDIG` of a legal index responds with the byte of the digest there and writes nothing (R112). -/
theorem exec_rddig (he : s.err = false) (hdv : s.dv = true) {n : Nat} (hn : n < 32) :
    exec (.rddig n) s = .next { s with resp := some (0#4 ++ s.digest[n]) } := by
  have hcheck : checkOf (.rddig n) s = none := readDigestCheck_eq_none.2 ⟨hdv, by omega⟩
  rw [exec_performed he hcheck, ← byteAt_eq s.digest n hn]
  rfl

/-- There is no digest to read at any index, legal or not (R126). -/
theorem exec_rddig_noDigest (he : s.err = false) (hdv : s.dv = false) (n : Nat) :
    exec (.rddig n) s = .next (faulted 3 s) := by
  have hcheck : checkOf (.rddig n) s = some .noDigest := if_neg (by rw [hdv]; decide)
  exact exec_fault he hcheck

/-- Settles O46: the three outcomes of the check of `RDDIG`. -/
theorem rddigReadsTheDigest : Obligations.RddigReadsTheDigest :=
  ⟨fun _ i he hdv => exec_rddig he hdv i.isLt, fun _ n he hdv => exec_rddig_noDigest he hdv n,
    fun _ _ he hdv h => exec_rddig_index he hdv h⟩

/-! ### `RDPW` (R113) -/

/-- There is no password to read at any index, legal or not (R126). -/
theorem exec_rdpw_noPw (he : s.err = false) (hpv : s.pv = false) (n : Nat) :
    exec (.rdpw n) s = .next (faulted 4 s) := by
  have hcheck : checkOf (.rdpw n) s = some .noPw := if_neg (by rw [hpv]; decide)
  exact exec_fault he hcheck

/-- A valid `PW` holds codes of the alphabet, for it is the encoding of `DIGEST` (R24, R28). -/
theorem Inv.getElem_pw_mem_alphabet (h : Inv s) (hpv : s.pv = true) (i : Fin 32) : s.pw[i] ∈ alphabet := by
  obtain ⟨-, hencoded⟩ := h.pvEncoded hpv
  have hmem : s.pw[i] ∈ s.pw.toList := Vector.mem_toList_iff.2 (Vector.getElem_mem i.isLt)
  exact mem_alphabet_of_mem_encodeDigest (hencoded ▸ hmem)

/-- Settles O47: the three outcomes of the check of `RDPW`, and the symbols of a valid password. -/
theorem rdpwReadsThePassword : Obligations.RdpwReadsThePassword :=
  ⟨fun _ i he hpv => exec_rdpw he hpv i.isLt, fun _ n he hpv => exec_rdpw_noPw he hpv n,
    fun _ _ he hpv h => exec_rdpw_index he hpv h, fun _ i hinv hpv => hinv.getElem_pw_mem_alphabet hpv i⟩

end Sys2Proof.Machine
end

section
/-! PROOFS, family 44_readout_and_system: `NOP` and the reads have no side effect and repeat (R115). -/

namespace Sys2Proof.Machine

variable {i : Instr}

/-- What a command does, its response included, does not depend on the response before it (R54). -/
theorem performOf_respond (i : Instr) (e : BitVec 4) (d : Byte) (s : State) :
    performOf i (respond e d s) = performOf i s := by
  rw [performOf, respond_bodyOf_respond, dataOf_respond, performOf]

/-- `NOP` and the reads only respond (R111 to R114). -/
theorem performOf_of_readsOnly (hi : i.readsOnly = true) (s : State) : performOf i s = respond 0#4 (dataOf i s) s := by
  cases i with
  | nop | rddig _ | rdpw _ | rdst => rfl
  | init | absorb _ | sep | final | rehash | iter | derive | encode | gen => cases hi

/-- Settles O49: a read that is performed leaves an unfaulted state whose checks and data are those of the state
before, and one that faults is fault entry. -/
theorem readsHaveNoSideEffect : Obligations.ReadsHaveNoSideEffect := by
  intro i s t hi he h
  rcases exec_cases h with ⟨he', -, -⟩ | ⟨-, c, -, rfl⟩ | ⟨-, hcheck, rfl⟩
  · exact nomatch he.symm.trans he'
  · exact ⟨nofun, fun _ => ⟨raiseFault_eq c s, faultNumber_ne_zero c⟩⟩
  · rw [performOf_of_readsOnly hi]
    refine ⟨fun ht => ⟨rfl, ?_⟩, fun ht => nomatch he.symm.trans ht⟩
    have hcheck' := (checkOf_respond i 0#4 (dataOf i s) s).trans hcheck
    rw [exec_performed ht hcheck', performOf_respond, performOf_of_readsOnly hi]

end Sys2Proof.Machine
end

section
/-! PROOFS, family 60_exceptions: the illegal words and their count (R55, R124), the order of the checks (R119), fault
entry (R120) and the faulted state (R121). -/

namespace Sys2Proof.Machine

variable {w : CmdWord} {i : Instr} {s t : State}

/-! ### The illegal words (R55) -/

/-- The opcodes with no command are 0x0D to 0xFF (R55 (a)). -/
theorem reservedOp_iff (op : Byte) :
    op ∉ formatZOps ∧ op ≠ 0x02#8 ∧ op ≠ 0x0A#8 ∧ op ≠ 0x0B#8 ↔ 0x0D ≤ op.toNat := by
  revert op; decide +kernel

/-- The format Z opcodes as numbers (R51). -/
def formatZNumbers : List Nat := formatZOps.map BitVec.toNat

theorem toNat_mem_formatZNumbers (op : Byte) : op.toNat ∈ formatZNumbers ↔ op ∈ formatZOps :=
  List.mem_map_of_injective fun _ _ => BitVec.eq_of_toNat_eq

theorem not_illegalWord_of_decode (h : decode w = .ok i) : ¬ IllegalWord w :=
  fun ⟨_, he⟩ => nomatch h.symm.trans he

/-- A word is illegal by a reserved opcode or by an operand where there is none: the two cases of R55. -/
theorem illegalWord_iff (w : CmdWord) : IllegalWord w ↔
    (opField w ∉ formatZOps ∧ opField w ≠ 0x02#8 ∧ opField w ≠ 0x0A#8 ∧ opField w ≠ 0x0B#8) ∨
      (opField w ∈ formatZOps ∧ immField w ≠ 0x00#8) := by
  rcases decode_cases w with ⟨hop, hd⟩ | ⟨hop, hd⟩ | ⟨hop, hd⟩ | ⟨i, hz, himm, hd⟩ | ⟨hop, himm, hd⟩ |
    ⟨hop, h2, hA, hB, hd⟩
  · simp [not_illegalWord_of_decode hd, hop, formatZOps]
  · simp [not_illegalWord_of_decode hd, hop, formatZOps]
  · simp [not_illegalWord_of_decode hd, hop, formatZOps]
  · have hmem : opField w ∈ formatZOps := by simpa [hz] using formatZ_isSome (opField w)
    simp [not_illegalWord_of_decode hd, hmem, himm]
  · exact iff_of_true hd (.inr ⟨hop, himm⟩)
  · exact iff_of_true hd (.inl ⟨hop, h2, hA, hB⟩)

/-- The illegal words by their number, as R124 lists them. -/
theorem illegalWord_iff_toNat (w : CmdWord) : IllegalWord w ↔
    0x0D ≤ w.toNat / 256 ∨ (w.toNat / 256 ∈ formatZNumbers ∧ w.toNat % 256 ≠ 0) := by
  have himm : immField w ≠ 0x00#8 ↔ w.toNat % 256 ≠ 0 := by
    rw [← toNat_immField, Ne, ← BitVec.toNat_inj]; rfl
  rw [illegalWord_iff, reservedOp_iff, himm, ← toNat_opField, toNat_mem_formatZNumbers]

/-! ### Their count -/

/-- Counting the numbers below `k * m` in `k` runs of `m`. -/
theorem countP_range_mul (p : Nat → Bool) (m k : Nat) : (List.range (k * m)).countP p =
    ((List.range k).map fun a => (List.range m).countP fun b => p (a * m + b)).sum := by
  induction k with
  | zero => simp
  | succ k ih =>
    rw [Nat.succ_mul, List.range_add, List.countP_append, ih, List.countP_map, List.range_succ, List.map_append,
      List.sum_append, List.map_singleton, List.sum_singleton]
    rfl

theorem isSome_decodeTableWord (nbits n : Nat) :
    (decodeTableWord nbits n).isSome = true ↔ ¬ IllegalWord (BitVec.ofNat 16 (n % 2 ^ nbits)) := by
  unfold decodeTableWord
  split
  next i hd => exact iff_of_true rfl (not_illegalWord_of_decode hd)
  next e hd => exact iff_of_false nofun (not_not_intro ⟨e, hd⟩)

/-- The legal words of an opcode: none, the one with `imm = 0x00`, or all (R55). -/
theorem isSome_decodeTableWord_fields {op imm : Nat} (hop : op < 256) (himm : imm < 256) :
    (decodeTableWord 16 (op * 256 + imm)).isSome = true ↔ op < 0x0D ∧ (op ∈ formatZNumbers → imm = 0) := by
  have hword : (BitVec.ofNat 16 ((op * 256 + imm) % 2 ^ 16)).toNat = op * 256 + imm := by
    rw [BitVec.toNat_ofNat]; omega
  have hdiv : (op * 256 + imm) / 256 = op := by omega
  have hmod : (op * 256 + imm) % 256 = imm := by omega
  rw [isSome_decodeTableWord, illegalWord_iff_toNat, hword, hdiv, hmod]
  simp only [not_or, not_and, not_not, Nat.not_le]

/-- How many of the 256 words of an opcode are legal (R124). -/
def legalWords (op : Nat) : Nat :=
  if 0x0D ≤ op then 0
  else if op ∈ formatZNumbers then 1
  else 256

theorem countP_decodeTableWord {op : Nat} (hop : op < 256) :
    (List.range 256).countP (fun imm => (decodeTableWord 16 (op * 256 + imm)).isSome) = legalWords op := by
  have hlegal {imm : Nat} (h : imm ∈ List.range 256) := isSome_decodeTableWord_fields hop (List.mem_range.1 h)
  unfold legalWords
  split
  next hreserved =>
    exact List.countP_eq_zero.2 fun imm h hsome => Nat.not_lt.2 hreserved ((hlegal h).1 hsome).1
  next hop13 =>
    have hlt := Nat.not_le.1 hop13
    split
    next hz =>
      calc (List.range 256).countP (fun imm => (decodeTableWord 16 (op * 256 + imm)).isSome)
        _ = (List.range 256).count 0 :=
            List.countP_congr fun imm h => by rw [hlegal h]; simp [hlt, hz]
        _ = 1 := List.count_eq_one_of_mem List.nodup_range (List.mem_range.2 (by decide))
    next hz =>
      rw [List.countP_eq_length.2 fun imm h => (hlegal h).2 ⟨hlt, fun h => absurd h hz⟩, List.length_range]

/-- 256 words for each of the 3 opcodes with an operand and one for each of the 10 of format Z (R124). -/
theorem length_filter_decodeTableWord :
    ((List.range 65536).filter (fun n => (decodeTableWord 16 n).isSome)).length = 778 := by
  calc ((List.range 65536).filter (fun n => (decodeTableWord 16 n).isSome)).length
    _ = (List.range (256 * 256)).countP (fun n => (decodeTableWord 16 n).isSome) :=
        List.countP_eq_length_filter.symm
    _ = ((List.range 256).map legalWords).sum := by
        rw [countP_range_mul]
        exact congrArg List.sum (List.map_congr_left fun op h => countP_decodeTableWord (List.mem_range.1 h))
    _ = 778 := by decide +kernel

/-- Settles O4: the two cases of R55, the fault of an illegal word, and the legal words counted opcode by opcode. -/
theorem illegalWordsFault : Obligations.IllegalWordsFault :=
  ⟨illegalWord_iff_toNat, fun _ _ h he => runWord_illegal_fault h he, length_filter_decodeTableWord⟩

/-! ### The order of the checks, and fault entry (R119, R120, R121) -/

/-- Settles O50: the first line of R119 that applies is the command's check, and a performed command keeps `ERR`. -/
theorem checksFollowTheirOrder : Obligations.ChecksFollowTheirOrder := by
  refine ⟨fun i s he hi => exec_refused hi he, exec_rdst, fun w s hw => ?_, fun i s c he hfault => ?_,
    fun i s he hfault => ?_⟩
  · split
    next he => exact runWord_illegal_refused hw he
    next he => exact runWord_illegal_fault hw (eq_false_of_ne_true he)
  · rw [firstFault_eq, Option.map_eq_some_iff] at hfault
    obtain ⟨code, hcheck, rfl⟩ := hfault
    exact exec_fault he hcheck
  · rw [firstFault_eq, Option.map_eq_none_iff] at hfault
    exact ⟨_, dataOf i s, exec_performed he hfault, (bodyOf_err i s).trans he, bodyOf_ecode i s, rfl⟩

/-- A command that leaves an unfaulted state faulted made fault entry with the code of its check, and no other write. -/
theorem exec_faulted (he : s.err = false) (h : exec i s = .next t) (ht : t.err = true) :
    ∃ c : FaultCode, t = faulted (faultNumber c) s := by
  rcases exec_cases h with ⟨he', -, -⟩ | ⟨-, c, -, rfl⟩ | ⟨-, -, rfl⟩
  · exact nomatch he.symm.trans he'
  · exact ⟨c, raiseFault_eq c s⟩
  · exact nomatch ht.symm.trans ((bodyOf_err i s).trans he)

theorem runWord_faulted (he : s.err = false) (h : runWord w s = .next t) (ht : t.err = true) :
    ∃ c : FaultCode, t = faulted (faultNumber c) s := by
  rcases word_cases w with ⟨i, hd⟩ | hw
  · exact exec_faulted he ((runWord_decoded hd s).symm.trans h) ht
  · cases (runWord_illegal_fault hw he).symm.trans h
    exact ⟨.illegal, rfl⟩

/-- Settles O51: a word that faults makes fault entry with a code of R118. -/
theorem faultEntryWritesNothingElse : Obligations.FaultEntryWritesNothingElse := by
  intro w s t he h ht
  obtain ⟨c, rfl⟩ := runWord_faulted he h ht
  exact ⟨rfl, faultNumber_range c⟩

/-- Settles O52: of the legal words 0x0C00 alone is `RDST`, and every other command is refused, as an illegal word is. -/
theorem faultedStateRefusesEveryWord : Obligations.FaultedStateRefusesEveryWord := by
  intro w s he
  split
  next hw => rw [runWord_decoded (decode_eq_rdst.2 hw)]; rfl
  next hw =>
    rcases word_cases w with ⟨i, hd⟩ | hillegal
    · have hi : i ≠ .rdst := fun hi => hw (decode_eq_rdst.1 (hi ▸ hd))
      rw [runWord_decoded hd, exec_refused hi he, refuseCommand_eq]
    · exact runWord_illegal_refused hillegal he

end Sys2Proof.Machine
end

section
/-! PROOFS, family 60_exceptions: the source's operation never faults (R129). -/

namespace Sys2Proof.Machine

variable {i : Instr} {s : State} {known : Bool}

/-! ### The appends -/

/-- An append is the `ABSORB` of some byte (R83, R84). -/
theorem exists_exec_eq_absorb (hi : i.appends = true) : ∃ b : Byte, ∀ s, exec i s = exec (.absorb b) s := by
  cases i with
  | absorb b => exact ⟨b, fun _ => rfl⟩
  | sep => exact ⟨0x7C, exec_sep⟩
  | nop | init | final | rehash | iter | derive | encode | gen | rddig _ | rdpw _ | rdst => cases hi

/-- A list of appends sends some message, a byte each (R61, R81). -/
theorem exists_runAll_eq_expandMsg (is : List Instr) (his : ∀ i ∈ is, i.appends = true) :
    ∃ m : List Byte, m.length = is.length ∧ ∀ s, runAll is s = runAll (expandMsg m) s := by
  induction is with
  | nil => exact ⟨[], rfl, fun _ => rfl⟩
  | cons i is ih =>
    obtain ⟨hi, his⟩ := List.forall_mem_cons.1 his
    obtain ⟨b, hb⟩ := exists_exec_eq_absorb hi
    obtain ⟨m, hlength, hm⟩ := ih his
    refine ⟨b :: m, congrArg Nat.succ hlength, fun s => ?_⟩
    obtain ⟨t, ht⟩ := exec_answers i s
    rw [runAll_cons ht, hm t]
    exact (runAll_cons ((hb s).symm.trans ht) (expandMsg m)).symm

/-! ### The read-out part -/

/-- An unfaulted finalized state whose digest holds a value, and, if `known`, whose password does too: what admits every
command of the read-out part (R129). -/
structure ReadyToRead (known : Bool) (s : State) : Prop where
  err : s.err = false
  fin : s.fin = true
  dv : s.dv = true
  pv : known = true → s.pv = true

/-- A finalization leaves a digest, and `GEN` a password with it (R87, R97, R105). -/
theorem readyToRead_of_finalizes (hi : i.finalizes = true) (he : s.err = false) :
    ReadyToRead (i == .gen) (performOf i s) := by
  have herr : (performOf i s).err = false := (bodyOf_err i s).trans he
  cases i with
  | final => exact ⟨herr, rfl, rfl, nofun⟩
  | derive => exact ⟨herr, deriveBody_fin s, deriveBody_dv s, nofun⟩
  | gen => exact ⟨herr, genBody_fin s, genBody_dv s, fun _ => genBody_pv s⟩
  | nop | init | absorb _ | sep | rehash | iter | encode | rddig _ | rdpw _ | rdst => cases hi

/-- Every command of the read-out part passes its checks (R119 lines 3 to 6). -/
theorem ReadyToRead.checkOf_eq_none (h : ReadyToRead known s) (hi : readOutAdmits known i = true) :
    checkOf i s = none := by
  cases i with
  | rehash | iter => exact rehashCheck_eq_none.2 h.fin
  | encode => exact digestCheck_eq_none.2 h.dv
  | rddig n => exact readDigestCheck_eq_none.2 ⟨h.dv, of_decide_eq_true hi⟩
  | rdpw n =>
    obtain ⟨hknown, hn⟩ := Bool.and_eq_true_iff.1 hi
    exact readPasswordCheck_eq_none.2 ⟨h.pv hknown, of_decide_eq_true hn⟩
  | rdst => rfl
  | nop | init | absorb _ | sep | final | derive | gen => cases hi

/-- Every command of the read-out part leaves a state that admits the next (R129). -/
theorem ReadyToRead.performOf (h : ReadyToRead known s) (hi : readOutAdmits known i = true) :
    ReadyToRead (passwordKnown known i) (performOf i s) := by
  have herr : (Machine.performOf i s).err = false := (bodyOf_err i s).trans h.err
  cases i with
  | rehash => exact ⟨herr, rfl, rfl, nofun⟩
  | iter => exact ⟨herr, iterBody_fin s, iterBody_dv s, nofun⟩
  | encode => exact ⟨herr, h.fin, h.dv, fun _ => rfl⟩
  | rddig _ | rdpw _ | rdst => exact ⟨herr, h.fin, h.dv, h.pv⟩
  | nop | init | absorb _ | sep | final | derive | gen => cases hi

/-- A read-out sequence completes without a fault. -/
theorem ReadyToRead.runAll (is : List Instr) : ∀ {known : Bool} {s : State}, ReadyToRead known s →
    ReadOutSequence known is → ∃ t, runAll is s = .next t ∧ t.err = false := by
  induction is with
  | nil => exact fun h _ => ⟨_, rfl, h.err⟩
  | cons i is ih =>
    intro known s h ⟨hi, his⟩
    obtain ⟨t, ht, herr⟩ := ih (h.performOf hi) his
    exact ⟨t, (runAll_cons (exec_performed h.err (h.checkOf_eq_none hi)) is).trans ht, herr⟩

/-! ### The whole operation -/

/-- A finalization checks for the absorbing phase alone (R119 line 3). -/
theorem exec_finalizes (hi : i.finalizes = true) (he : s.err = false) (hfin : s.fin = false) :
    exec i s = .next (performOf i s) := by
  have hcheck : finalizeCheck s = none := finalizeCheck_eq_none.2 hfin
  cases i with
  | final | derive | gen => exact exec_performed he hcheck
  | nop | init | absorb _ | sep | rehash | iter | encode | rddig _ | rdpw _ | rdst => cases hi

/-- Settles O55: `INIT` and the appends leave the hash state of a message, which admits the finalization, and what the
finalization leaves admits the read-out part. -/
theorem sourceOperationNeverFaults : Obligations.SourceOperationNeverFaults := by
  intro s appends readOut f he happends hroom hf hreadOut
  obtain ⟨m, hlength, hm⟩ := exists_runAll_eq_expandMsg appends happends
  obtain ⟨t, ht, habsorbs, herr, -⟩ := runAll_init_expandMsg he (hlength.trans_le hroom)
  have habsorbed : runAll ([.init] ++ appends) s = .next t := (runAll_cons_congr hm .init s).trans ht
  have hfinal : runAll ([.init] ++ appends ++ [f]) s = .next (performOf f t) :=
    (runAll_append _ _ _ _ habsorbed).trans (runAll_cons (exec_finalizes hf herr habsorbs.fin) [])
  obtain ⟨u, hu, herr'⟩ := (readyToRead_of_finalizes hf herr).runAll readOut hreadOut
  exact ⟨u, (runAll_append _ _ _ _ hfinal).trans hu, herr'⟩

end Sys2Proof.Machine
end

section
/-! PROOFS, family 70_reset_and_hazards: `rst` gives the reset state from every state (R133 to R135). -/

namespace Sys2Proof.Machine

/-- Settles O9: the step applies the reset to the state with the event taken, and a reset keeps of it only the parameter,
what the host presents later, and whatever the cells without a value hold. -/
theorem rstGivesTheResetState : Obligations.RstGivesTheResetState := by
  intro s rest hport
  have hreset : step s = .next (applyReset { s with port := rest }) := step_reset hport
  exact ⟨_, hreset, rfl⟩

end Sys2Proof.Machine
end
